-- ==== Sys2Proof/Word.lean ====
section
/-!
DEFINITION. The words of the block (00_scope.md R2, R6, R10): every value is an unsigned word of a fixed width.
-/

namespace Sys2Proof

/-- A time in whole milliseconds since the Unix epoch, W_T = 48 bits (R2, R27). -/
abbrev Millis := BitVec 48

/-- A random payload, W_R = 80 bits (R2, R28). -/
abbrev Payload := BitVec 80

/-- A ULID value, `{timestamp[47:0], randomness[79:0]}`, 128 bits (R6, R43). -/
abbrev Ulid := BitVec 128

/-- One five-bit slice of the padded value (R42). -/
abbrev Group := BitVec 5

/-- A character code, one byte (R24). -/
abbrev Code := BitVec 8

end Sys2Proof
end

