-- ==== Sys2Proof/Config.lean ====
section
/-!
DEFINITION. What is fixed for one block: the constants of 00_scope.md R6, the build-time parameter of R7, and the free values
that stand for port samples the state does not list (10_state.md R27, R28).
-/

namespace Sys2Proof

/-- `cfg` of the step (R7, R12): the one configuration parameter, fixed at build time. DESIGN CHOICE (log entry 4): it travels
in `State.cfg`, which no step writes. -/
structure Config where
  /-- With `true` the character decoder also accepts the lower-case forms of the 22 alphabet letters (R7, R25). -/
  caseFold : Bool
  deriving DecidableEq, Repr

/-- The default build: `CASE_FOLD = false` (R7). -/
def Config.standard : Config := ⟨false⟩

/-- MAX_EPOCH_TIME = 2^48 − 1 (R6). -/
def maxEpochTime : Nat := 281474976710655

/-- The maximum randomness, 2^80 − 1 (R6). -/
def maxRandomness : Nat := 1208925819614629174706175

/-- The bound of a ULID value, 2^128: the total width is 128 (R6). -/
def ulidBound : Nat := 340282366920938463463374607431768211456

/-- FREE VALUE (log entry 3): the `n`-th sample of the clock port where the state lists none. R27: "a free 48-bit input under
no law". -/
opaque Config.freeClk : Nat → Millis

/-- FREE VALUE (log entry 3): ENT_OK of the `n`-th entropy sample where the state lists none (R28: "a free input under no
law"). -/
opaque Config.freeEntOk : Nat → BitVec 1

/-- FREE VALUE (log entry 3): ENT of the `n`-th entropy sample where the state lists none (R28). -/
opaque Config.freeEnt : Nat → Payload

end Sys2Proof
end

