-- ==== Sys2Proof/Syntax.lean ====
section
/-!
DEFINITION. The seven commands of spec/opcode_table.json with the operands their rules name (30_encoding.md R52), and the lines
of the command port that carry one command (R50, R52).
-/

namespace Sys2Proof

/-- One constructor per row of the opcode table. The operand types are those of R52's type column: an `Int` or a `Nat` where
the source range-checks the caller's number (R10), words elsewhere. -/
inductive Instr where
  /-- ENC, R60: `V`, the integer to encode. -/
  | enc (v : Int)
  /-- ENCTS, R61: `T`, the timestamp to encode. -/
  | encts (t : Int)
  /-- DECG, R80: `G[0..25]`, group 0 the most significant. -/
  | decg (groups : Vector Group 26)
  /-- DEC, R81: `LEN`, the string's length, and `C[0..25]`, its first 26 characters. -/
  | dec (len : Nat) (chars : Vector Code 26)
  /-- GEN, R100: `S` (0 clock port, 1 seed) and `TSEED`, read only when S = 1. -/
  | gen (sel : BitVec 1) (tseed : Millis)
  /-- GENM, R101: `S` and `TSEED` as for GEN. -/
  | genm (sel : BitVec 1) (tseed : Millis)
  /-- INIT, R102: `ITS`, `IRV` and `IRND`, the last read only when IRV = 1. -/
  | init (its : Millis) (irv : BitVec 1) (irnd : Payload)
  deriving DecidableEq, Repr

/-- The lines of the command port (R50, R52, R53): the command word and the operand fields in their port realisation. A field
is read only for the opcodes R52 lists it for; a host that presents another opcode leaves it at 0 (log entry 7). -/
structure Command where
  /-- The command word CMD, `RRRSOOOO` (R50). -/
  cmd : BitVec 8
  /-- ENC: V is out of range (R53). -/
  vOor : BitVec 1 := 0
  /-- ENC: V, when it is in range (R53). -/
  vW : BitVec 128 := 0
  /-- ENCTS: T is out of range (R53). -/
  tOor : BitVec 1 := 0
  /-- ENCTS: T, when it is in range (R53). -/
  tW : BitVec 48 := 0
  /-- DECG: the group vector, `G[i] = GRPV[129 − 5i : 125 − 5i]` (R44, R52). -/
  grpv : BitVec 130 := 0
  /-- DEC: the string length saturated at 0xFFFF (R52). -/
  lenW : BitVec 16 := 0
  /-- DEC: the character vector, `C[i] = CHRV[207 − 8i : 200 − 8i]` (R44, R52). -/
  chrv : BitVec 208 := 0
  /-- GEN, GENM: the seed time (R51, R52). -/
  tseed : BitVec 48 := 0
  /-- INIT: the new LAST_TS (R52). -/
  its : BitVec 48 := 0
  /-- INIT: the new RND_VALID (R52). -/
  irv : BitVec 1 := 0
  /-- INIT: the new LAST_RND, when IRV = 1 (R52). -/
  irnd : BitVec 80 := 0
  deriving DecidableEq, Repr

/-- The integer the decoder reads where an out-of-range flag is 1. DESIGN CHOICE (log entry 6): R53 says that the word is then
ignored and that the verdict is a function of the flag alone, so any integer below 0 or past the bound would do. -/
def outOfRangeInt : Int := -1

end Sys2Proof
end

