-- ==== Sys2Proof/WellFormed.lean ====
section
/-!
DEFINITION. Which instructions the command port can present exactly (30_encoding.md R52, R53): the port tells apart every
in-range integer, and one "out of range"; it tells apart every string length below 0xFFFF, and "0xFFFF or more".
-/

namespace Sys2Proof

/-- The integer operand `v` of a command whose range is `[0, bound)` is in range, or is the one integer that stands for every
integer out of range (log entry 6). -/
def portInt (bound : Nat) (v : Int) : Bool := (decide (0 ≤ v) && decide (v < bound)) || v == outOfRangeInt

/-- The instruction is one the port can present without loss. Every instruction has its meaning all the same: an ill-formed
one is presented as the well-formed one that behaves alike (R52, R53). -/
def Instr.wellFormed : Instr → Bool
  | .enc v => portInt ulidBound v
  | .encts t => portInt (maxEpochTime + 1) t
  | .decg _ => true
  | .dec len _ => decide (len ≤ 0xFFFF)
  | .gen _ _ => true
  | .genm _ _ => true
  | .init _ _ _ => true

end Sys2Proof
end

