-- ==== Sys2Proof/Decode.lean ====
section
/-!
DEFINITION. From the lines of the command port to an instruction and back (30_encoding.md R50 to R56; 20_memory.md R44). The
decoder is total on every command word and rejects the illegal ones by name; the encoder is R53's host-side adapter.
-/

namespace Sys2Proof

/-- The mnemonics of 30_encoding.md R54, one per row of the opcode table. -/
inductive Mnemonic where
  | ENC | ENCTS | DECG | DEC | GEN | GENM | INIT
  deriving DecidableEq, Repr

/-- Why the decoder refuses a command word. -/
inductive DecodeError where
  /-- The word is none of the nine legal ones (R55); the block raises ILLEGAL with this word as INFO. -/
  | illegal (cmd : BitVec 8)
  deriving DecidableEq, Repr

/-! ### The fields of the command word (R50) -/

/-- RES = CMD[7:5], reserved, must be 000. -/
def resField (cmd : BitVec 8) : BitVec 3 := cmd.extractLsb' 5 3

/-- S = CMD[4], the time-source select (R51). -/
def selField (cmd : BitVec 8) : BitVec 1 := cmd.extractLsb' 4 1

/-- OP = CMD[3:0], the opcode (R54). -/
def opField (cmd : BitVec 8) : BitVec 4 := cmd.extractLsb' 0 4

/-- The command word `{000, S, OP}` (R50). -/
def commandWord (op : BitVec 4) (sel : BitVec 1) : BitVec 8 := 0#3 ++ sel ++ op

/-- The opcode map (R54): RES must be 000, and S must be 0 but for GEN and GENM (R51, R55). -/
def opcodeOf (cmd : BitVec 8) : Option Mnemonic :=
  if resField cmd ≠ 0 then none
  else
    match opField cmd, selField cmd with
    | 0x1#4, 0#1 => some .ENC
    | 0x2#4, 0#1 => some .ENCTS
    | 0x3#4, 0#1 => some .DECG
    | 0x4#4, 0#1 => some .DEC
    | 0x5#4, _ => some .GEN
    | 0x6#4, _ => some .GENM
    | 0x7#4, 0#1 => some .INIT
    | _, _ => none

/-- `OP` of each mnemonic (R54). -/
def opcodeNumber : Mnemonic → BitVec 4
  | .ENC => 0x1
  | .ENCTS => 0x2
  | .DECG => 0x3
  | .DEC => 0x4
  | .GEN => 0x5
  | .GENM => 0x6
  | .INIT => 0x7

/-- The "mask" column of spec/opcode_table.json. -/
def tableMask : Mnemonic → BitVec 8
  | .ENC => 0xFF
  | .ENCTS => 0xFF
  | .DECG => 0xFF
  | .DEC => 0xFF
  | .GEN => 0xEF
  | .GENM => 0xEF
  | .INIT => 0xFF

/-- The "match" column of spec/opcode_table.json. -/
def tableMatch : Mnemonic → BitVec 8
  | .ENC => 0x01
  | .ENCTS => 0x02
  | .DECG => 0x03
  | .DEC => 0x04
  | .GEN => 0x05
  | .GENM => 0x06
  | .INIT => 0x07

/-! ### Multi-element fields (R44): element 0 is the most significant -/

/-- The concatenation `{x0, x1, ...}` of `w`-bit elements as an `n`-bit word. -/
def packFields (w n : Nat) (xs : List (BitVec w)) : BitVec n := xs.foldl (fun acc x => acc <<< w ||| x.setWidth n) 0

/-- `{G[0], ..., G[25]}` (R44, R80). -/
def packGroups (g : Vector Group 26) : BitVec 130 := packFields 5 130 g.toList

/-- `G[i] = GRPV[129 − 5i : 125 − 5i]` (R44, R52). -/
def unpackGroups (grpv : BitVec 130) : Vector Group 26 := Vector.ofFn fun i => grpv.extractLsb' (125 - 5 * i.val) 5

/-- `{C[0], ..., C[25]}` (R44). -/
def packChars (c : Vector Code 26) : BitVec 208 := packFields 8 208 c.toList

/-- `C[i] = CHRV[207 − 8i : 200 − 8i]` (R44, R52). -/
def unpackChars (chrv : BitVec 208) : Vector Code 26 := Vector.ofFn fun i => chrv.extractLsb' (200 - 8 * i.val) 8

/-! ### The host-side adapter of the number operands (R52, R53) -/

/-- The out-of-range flag of an integer whose range is `[0, bound)`: 1 exactly when it is out of it (R53). -/
def oorFlag (bound : Nat) (v : Int) : BitVec 1 := if v < 0 ∨ v ≥ bound then 1 else 0

/-- The word that goes with the flag: the integer, zero-extended, when it is in range (R53). It is ignored otherwise; the
assembler presents 0 then (95_test_vectors.md P2, `ENC -1`). -/
def oorWord (n bound : Nat) (v : Int) : BitVec n := if v < 0 ∨ v ≥ bound then 0 else BitVec.ofNat n v.toNat

/-- LEN_W: the string length saturated at 0xFFFF (R52). -/
def saturatedLen (len : Nat) : BitVec 16 := BitVec.ofNat 16 (min len 0xFFFF)

/-- The integer the block sees behind a flag and a word (R53; log entry 6). -/
def portOperand (oor : BitVec 1) (w : BitVec n) : Int := if oor = 1 then outOfRangeInt else w.toNat

/-! ### Decoder and encoder -/

/-- The operands of R52 for each opcode, taken from their lines. -/
def operandsOf (m : Mnemonic) (c : Command) : Instr :=
  match m with
  | .ENC => .enc (portOperand c.vOor c.vW)
  | .ENCTS => .encts (portOperand c.tOor c.tW)
  | .DECG => .decg (unpackGroups c.grpv)
  | .DEC => .dec c.lenW.toNat (unpackChars c.chrv)
  | .GEN => .gen (selField c.cmd) c.tseed
  | .GENM => .genm (selField c.cmd) c.tseed
  | .INIT => .init c.its c.irv c.irnd

/-- The command decoder, total on every byte (R55). -/
def decode (c : Command) : Except DecodeError Instr :=
  match opcodeOf c.cmd with
  | some m => .ok (operandsOf m c)
  | none => .error (.illegal c.cmd)

/-- The row of the opcode table an instruction belongs to. -/
def mnemonicOf : Instr → Mnemonic
  | .enc _ => .ENC
  | .encts _ => .ENCTS
  | .decg _ => .DECG
  | .dec _ _ => .DEC
  | .gen _ _ => .GEN
  | .genm _ _ => .GENM
  | .init _ _ _ => .INIT

/-- The lines a host presents for an instruction: its command word (R54) and its operand fields through the adapter (R52,
R53); every other line is 0. -/
def encode : Instr → Command
  | .enc v => { cmd := commandWord 0x1 0, vOor := oorFlag ulidBound v, vW := oorWord 128 ulidBound v }
  | .encts t =>
    { cmd := commandWord 0x2 0, tOor := oorFlag (maxEpochTime + 1) t, tW := oorWord 48 (maxEpochTime + 1) t }
  | .decg g => { cmd := commandWord 0x3 0, grpv := packGroups g }
  | .dec len chars => { cmd := commandWord 0x4 0, lenW := saturatedLen len, chrv := packChars chars }
  | .gen sel tseed => { cmd := commandWord 0x5 sel, tseed := tseed }
  | .genm sel tseed => { cmd := commandWord 0x6 sel, tseed := tseed }
  | .init its irv irnd => { cmd := commandWord 0x7 0, its := its, irv := irv, irnd := irnd }

/-- The bits of the operand fields of each opcode: a command's length is 8 plus these, fixed by OP alone (R52, R56). -/
def operandBits : Mnemonic → Nat
  | .ENC => 1 + 128
  | .ENCTS => 1 + 48
  | .DECG => 130
  | .DEC => 16 + 208
  | .GEN => 48
  | .GENM => 48
  | .INIT => 48 + 1 + 80

/-! ### The opcode table's numbering -/

/-- The command whose first word is the low byte of `w` as spec/opcode_table.json numbers it, with every operand line 0: the
table gives a row 8 bits, and no bit to an operand (log entry 8). -/
def tableCommand (nbits w : Nat) : Command := { cmd := BitVec.ofNat 8 (w % 2 ^ nbits) }

/-- The instruction the decoder reads from a word of the opcode table. -/
def decodeTableWord (nbits w : Nat) : Option Instr :=
  match decode (tableCommand nbits w) with
  | .ok i => some i
  | .error _ => none

end Sys2Proof
end

