-- ==== Sys2Proof/Machine/State.lean ====
section
/-!
DEFINITION. The state of the machine as plain data: the block's four registers (10_state.md R36), the ports a host and the
platform reach it through (R27 to R30), and the build parameter (00_scope.md R7).
-/

namespace Sys2Proof.Machine

/-- The error names of 60_exceptions.md R120; their codes are `errCode`. An error is no fault: the command that meets it ends
in a next state (R125). -/
inductive Err where
  /-- 0x0, no error. -/
  | ok
  /-- 0x1, TypeError-class; never raised by the block (R121). -/
  | type
  /-- 0x2, raised by ENC (R60). -/
  | rangeValue
  /-- 0x3, raised by ENCTS (R61). -/
  | rangeTs
  /-- 0x4, raised by DEC (R81). -/
  | valueLen
  /-- 0x5, raised by DEC (R81). -/
  | valueChar
  /-- 0x6, raised by DECG and DEC (R80). -/
  | valueTs
  /-- 0x7, raised by GENM (R101). -/
  | overflow
  /-- 0x8, raised by GEN and GENM (R100, R101); it sets FATAL (R122). -/
  | rngFail
  /-- 0x9, raised by GENM (R101). -/
  | uninit
  /-- 0xA, raised by an illegal command word (R55). -/
  | illegal
  /-- 0xB, raised by every command while FATAL = 1 (R124). -/
  | fatal
  deriving DecidableEq, Repr

/-- Why a step has no next state. -/
inductive Fault where
  /-- A command is presented before the first reset: "a run that issues a command before reset has no step (it is stuck)"
  (70_reset_and_hazards.md R141, U11). Raised by `step` alone, never from `State.reset`. Safe. -/
  | notReset
  deriving DecidableEq, Repr

/-- Why an instruction has no meaning in this model. -/
inductive Refusal where
  /-- The instruction of this mnemonic has no meaning yet; raised by an arm of `exec` alone. Safe. -/
  | notModelled (mnemonic : String)
  deriving DecidableEq, Repr

/-- One sample of the entropy port (R28). -/
structure Entropy where
  /-- ENT_OK: 0 means the source failed. -/
  ok : BitVec 1
  /-- ENT, the 80 random bits. -/
  ent : Payload
  deriving DecidableEq, Repr

/-- The response record, one per command (R30). -/
structure Response where
  /-- ERR, the error code (R120). -/
  err : BitVec 4
  /-- INFO, the error information (R120). -/
  info : BitVec 8
  /-- NSYM, the number of symbols produced: 26, 10 or 0. -/
  nsym : BitVec 5
  /-- GRP[0..25], group 0 the most significant. -/
  grp : Vector Group 26
  /-- CHR[0..25]. -/
  chr : Vector Code 26
  /-- TS, the timestamp field. -/
  ts : Millis
  /-- RND, the randomness field. -/
  rnd : Payload
  /-- VAL, the 128-bit value. -/
  val : Ulid
  deriving DecidableEq, Repr

/-- What a host or the platform does to the block, one at a time (R29, R140). -/
inductive PortEvent where
  /-- A command presented on the command port. -/
  | command (c : Command)
  /-- An assertion of the reset input (70_reset_and_hazards.md R140). -/
  | reset
  deriving DecidableEq, Repr

/-- The machine. `lastTs`, `lastRnd`, `rndValid` and `fatal` are the block's state, "exactly LAST_TS, LAST_RND, RND_VALID and
FATAL" (R36); the other fields are its parameter and its ports. -/
structure State where
  /-- LAST_TS, the timestamp register of the monotonic generator (R20). -/
  lastTs : Millis
  /-- LAST_RND, the randomness register: `none` while it holds no value (R10, R21; log entry 5). -/
  lastRnd : Option Payload
  /-- RND_VALID, the tag of `lastRnd` (R22). -/
  rndValid : BitVec 1
  /-- FATAL, the sticky fault flag (R23). -/
  fatal : BitVec 1
  /-- The build parameter `cfg` of the step (R7, R12; log entry 4). -/
  cfg : Config
  /-- Whether the block has been reset since power-up (R141; log entry 10). -/
  wasReset : Bool
  /-- The command port: what is presented and held there, in acceptance order (R29, R48; log entry 2). -/
  pending : List PortEvent
  /-- The samples the clock port will give, oldest first (R27; log entry 3). -/
  clkIn : List Millis
  /-- The samples the entropy port will give, oldest first (R28; log entry 3). -/
  entIn : List Entropy
  /-- The MODEL's own count of clock samples taken; it indexes `Config.freeClk` (log entry 3). -/
  clkDraws : Nat
  /-- The MODEL's own count of entropy samples taken; it indexes `Config.freeEnt` (log entry 3). -/
  entDraws : Nat
  /-- The response port: the response of the last step, if that step performed a command (R30, R31; log entry 1). -/
  response : Option Response
  deriving DecidableEq, Repr

/-- The machine right after reset (70_reset_and_hazards.md R140), of the default build (R7), with nothing presented and no
sample listed. -/
def State.reset : State where
  lastTs := 0
  lastRnd := none
  rndValid := 0
  fatal := 0
  cfg := Config.standard
  wasReset := true
  pending := []
  clkIn := []
  entIn := []
  clkDraws := 0
  entDraws := 0
  response := none

end Sys2Proof.Machine
end

