-- ==== Sys2Proof/Machine/Flags.lean ====
section
/-!
DEFINITION. The status a command reports: ERR and INFO (60_exceptions.md R120). The block has no condition codes (10_state.md
R33).
-/

namespace Sys2Proof.Machine

/-- The numeric error codes (R120). -/
def errCode : Err → BitVec 4
  | .ok => 0x0
  | .type => 0x1
  | .rangeValue => 0x2
  | .rangeTs => 0x3
  | .valueLen => 0x4
  | .valueChar => 0x5
  | .valueTs => 0x6
  | .overflow => 0x7
  | .rngFail => 0x8
  | .uninit => 0x9
  | .illegal => 0xA
  | .fatal => 0xB

/-- INFO of VALUE_LEN: the length saturated at 255 (R81, R120). -/
def lenInfo (len : Nat) : BitVec 8 := BitVec.ofNat 8 (min len 255)

/-- INFO of VALUE_CHAR: the lowest bad position (R81, R120). -/
def positionInfo (i : Fin 26) : BitVec 8 := BitVec.ofNat 8 i.val

/-- INFO of VALUE_TS: the leading group, zero-extended (R80, R120). -/
def leadingInfo (g : Group) : BitVec 8 := g.setWidth 8

end Sys2Proof.Machine
end

