-- ==== Sys2Proof/Machine/Operands.lean ====
section
/-!
DEFINITION. The alphabet ROM and its inverse (10_state.md R24, R25), the slices of a value into groups (20_memory.md R42, R43),
and the response records a command can give (10_state.md R30, R31).
-/

namespace Sys2Proof.Machine

/-! ### Alphabet ROM -/

/-- The SYM column of R24, indices 0 to 31. PRESUMED: the spec takes the codes from general knowledge (log entry 12). -/
def symRom : List Code :=
  [0x30, 0x31, 0x32, 0x33, 0x34, 0x35, 0x36, 0x37] ++
  [0x38, 0x39, 0x41, 0x42, 0x43, 0x44, 0x45, 0x46] ++
  [0x47, 0x48, 0x4A, 0x4B, 0x4D, 0x4E, 0x50, 0x51] ++
  [0x52, 0x53, 0x54, 0x56, 0x57, 0x58, 0x59, 0x5A]

/-- The lower-case column of R24, indices 10 to 31. -/
def lowerRom : List Code :=
  [0x61, 0x62, 0x63, 0x64, 0x65, 0x66] ++
  [0x67, 0x68, 0x6A, 0x6B, 0x6D, 0x6E, 0x70, 0x71] ++
  [0x72, 0x73, 0x74, 0x76, 0x77, 0x78, 0x79, 0x7A]

/-- `SYM[k]`, the code of the `k`-th alphabet character (R24). -/
def sym (k : Group) : Code := symRom.getD k.toNat 0

/-- The lower-case code listed for index `k` in R24; the ten digits have none. -/
def lowerCode (k : Group) : Option Code := if k.toNat < 10 then none else lowerRom[k.toNat - 10]?

/-- Code `c` is accepted for index `k`: it is `SYM[k]`, or the lower-case code of `k` when CASE_FOLD (R25). -/
def accepts (caseFold : Bool) (c : Code) (k : Group) : Bool := sym k == c || (caseFold && lowerCode k == some c)

/-- `UNSYM(cfg, c)`, the decoder's inverse map (R25). -/
def unsym (caseFold : Bool) (c : Code) : Option Group :=
  ((List.range 32).map (BitVec.ofNat 5)).find? (accepts caseFold c)

/-! ### Slices -/

/-- Group `i` of the 130-bit padded value: bits [129 − 5i : 125 − 5i] (R42). -/
def valueGroup (w : BitVec 130) (i : Fin 26) : Group := w.extractLsb' (125 - 5 * i.val) 5

/-- Group `i` of the 50-bit padded timestamp: bits [49 − 5i : 45 − 5i] for `i` below 10 (R61). -/
def timeGroup (w : BitVec 50) (i : Fin 26) : Group := w.extractLsb' (45 - 5 * i.val) 5

/-- The first position whose character is not in the alphabet (R81, R85). -/
def firstBadChar (caseFold : Bool) (chars : Vector Code 26) : Option (Fin 26) :=
  (List.finRange 26).find? fun i => (unsym caseFold chars[i]).isNone

/-- The groups of a string whose characters are all in the alphabet (R81); a character that is not gives 0 here, and is never
read, since `firstBadChar` stops the command. -/
def charGroups (caseFold : Bool) (chars : Vector Code 26) : Vector Group 26 :=
  Vector.ofFn fun i => (unsym caseFold chars[i]).getD 0

/-! ### Response records -/

/-- A response with the given status and every data field 0 (R31). -/
def blankResponse (e : Err) (info : BitVec 8) : Response where
  err := errCode e
  info := info
  nsym := 0
  grp := Vector.ofFn fun _ => 0
  chr := Vector.ofFn fun _ => 0
  ts := 0
  rnd := 0
  val := 0

/-- The response of ENC for the value `x`, and `emit(x)` of 42_generator.md (R60). -/
def emission (x : Ulid) : Response :=
  { blankResponse .ok 0 with
    nsym := 26
    grp := Vector.ofFn fun i => valueGroup (x.setWidth 130) i
    chr := Vector.ofFn fun i => sym (valueGroup (x.setWidth 130) i)
    val := x
    ts := x.extractLsb' 80 48
    rnd := x.extractLsb' 0 80 }

/-- The response of ENCTS for the timestamp `t` (R61). -/
def timeEmission (t : Millis) : Response :=
  { blankResponse .ok 0 with
    nsym := 10
    grp := Vector.ofFn fun i => if i.val < 10 then timeGroup (t.setWidth 50) i else 0
    chr := Vector.ofFn fun i => if i.val < 10 then sym (timeGroup (t.setWidth 50) i) else 0
    ts := t }

/-- The 50-bit timestamp of the padded value, its first 10 groups (R80; 90_conflicts.md C2). -/
def paddedTime (w : BitVec 130) : BitVec 50 := w.extractLsb' 80 50

/-- The response of DECG for a padded value whose timestamp is in range (R80). -/
def decoded (w : BitVec 130) : Response :=
  { blankResponse .ok 0 with
    ts := w.extractLsb' 80 48
    rnd := w.extractLsb' 0 80
    val := w.extractLsb' 0 128 }

end Sys2Proof.Machine
end

