-- ==== Sys2Proof/Machine/Ops.lean ====
section
/-!
DEFINITION. The named operations over the machine: responding, raising an error (the block's one way of taking an exception,
60_exceptions.md R122, R125), the common prelude (R123), sampling the ports (10_state.md R27, R28), writing the generator
registers (R20 to R22), reset (70_reset_and_hazards.md R140), and what the ports do between commands.
-/

namespace Sys2Proof.Machine

/-! ### Responses and errors -/

/-- Present `r` on the response port (R30). -/
def respond (r : Response) (s : State) : State := { s with response := some r }

/-- `raise e(info)`: the command ends with error `e`, with no register written and every data field 0 (R11, R122). There is no
return from it (R126). -/
def raise (e : Err) (info : BitVec 8) (s : State) : State := respond (blankResponse e info) s

/-- RNG_FAIL, the one error that writes a register: FATAL becomes 1 (R100, R101, R122). -/
def raiseRngFail (s : State) : State := raise .rngFail 0 { s with fatal := 1 }

/-- The first check of the common prelude (R123, R124): while FATAL = 1 the command raises FATAL; otherwise its own rule
follows. The second check, legality, is the decoder's (`Sys2Proof.decode`, `refuseIllegal`). -/
def withPrelude (body : State → State) (s : State) : State :=
  if s.fatal = 1 then raise .fatal 0 s else body s

/-- A command word the decoder rejects: ILLEGAL with INFO = CMD, after the FATAL check (R55, R123). -/
def refuseIllegal (cmd : BitVec 8) (s : State) : State := withPrelude (raise .illegal cmd) s

/-! ### Port samples -/

/-- What the clock port gives when it is sampled now: the next listed sample, or a free value where none is listed (R27; log
entry 3). -/
def clkSample (s : State) : Millis := s.clkIn.headD (Config.freeClk s.clkDraws)

/-- The state after one sample of the clock port. -/
def takeClk (s : State) : State := { s with clkIn := s.clkIn.tail, clkDraws := s.clkDraws + 1 }

/-- What the entropy port gives when it is sampled now (R28; log entry 3). -/
def entSample (s : State) : Entropy := s.entIn.headD ⟨Config.freeEntOk s.entDraws, Config.freeEnt s.entDraws⟩

/-- The state after one sample of the entropy port. -/
def takeEnt (s : State) : State := { s with entIn := s.entIn.tail, entDraws := s.entDraws + 1 }

/-- The time a GEN or GENM uses: the clock's sample (S = 0) or the seed operand (S = 1) (R51). -/
def selectedTime (sel : BitVec 1) (tseed : Millis) (s : State) : Millis := if sel = 1 then tseed else clkSample s

/-- The state after that time has been selected: the clock is sampled only when S = 0 (R27, R51). -/
def afterTime (sel : BitVec 1) (s : State) : State := if sel = 1 then s else takeClk s

/-! ### Generator registers -/

/-- The value LAST_RND holds, read through its tag (R21, R22): `none` while it is unset. -/
def heldRnd (s : State) : Option Payload := if s.rndValid = 1 then s.lastRnd else none

/-- Write LAST_RND with a value; RND_VALID becomes 1 (R22). -/
def writeRnd (r : Payload) (s : State) : State := { s with lastRnd := some r, rndValid := 1 }

/-- Make LAST_RND unset; RND_VALID becomes 0 (R22, R102). -/
def unsetRnd (s : State) : State := { s with lastRnd := none, rndValid := 0 }

/-- Write LAST_TS (R20). -/
def writeTs (t : Millis) (s : State) : State := { s with lastTs := t }

/-! ### Reset and the ports between commands -/

/-- The reset input (R140): every register to its reset value; no port is sampled and no response is given. Commands held at
the port stay held (log entry 9). -/
def resetInput (s : State) : State :=
  { s with lastTs := 0, lastRnd := none, rndValid := 0, fatal := 0, wasReset := true, response := none }

/-- Nothing is presented: the block waits and holds its state (R41, R133); the response of the command before has been taken
(R31; log entry 1). -/
def waitIdle (s : State) : State := { s with response := none }

/-- The port's next event is accepted and leaves the port (R29, R48). -/
def acceptEvent (rest : List PortEvent) (s : State) : State := { s with pending := rest }

/-- The command of the opcode-table word `w` is put where the next step accepts it, in front of everything held, of a block
that has been reset (log entry 8). -/
def presentFirst (c : Command) (s : State) : State := { s with wasReset := true, pending := .command c :: s.pending }

end Sys2Proof.Machine
end

