-- ==== Sys2Proof/Machine/Decoder.lean ====
section
/-!
DEFINITION. The decoder unit: DECG and DEC (41_decode.md R80, R81).
-/

namespace Sys2Proof.Machine

/-- The checks and writes of R80, which R81 ends with. -/
def decodeGroups (g : Vector Group 26) (s : State) : State :=
  if (paddedTime (packGroups g)).toNat > maxEpochTime then raise .valueTs (leadingInfo g[0]) s
  else respond (decoded (packGroups g)) s

/-- The checks of R81 in their order: the length, then the characters from position 0 upward, then R80's. -/
def decodeString (len : Nat) (chars : Vector Code 26) (s : State) : State :=
  if len ≠ 26 then raise .valueLen (lenInfo len) s
  else
    match firstBadChar s.cfg.caseFold chars with
    | some i => raise .valueChar (positionInfo i) s
    | none => decodeGroups (charGroups s.cfg.caseFold chars) s

/-- DECG (R80). -/
def execDecg (groups : Vector Group 26) (s : State) : Host.Outcome State Fault Refusal :=
  .next <| withPrelude (decodeGroups groups) s

/-- DEC (R81). -/
def execDec (len : Nat) (chars : Vector Code 26) (s : State) : Host.Outcome State Fault Refusal :=
  .next <| withPrelude (decodeString len chars) s

end Sys2Proof.Machine
end

