-- ==== Sys2Proof/Machine/Encoder.lean ====
section
/-!
DEFINITION. The encoder unit: ENC and ENCTS (40_encode.md R60, R61).
-/

namespace Sys2Proof.Machine

/-- ENC (R60). -/
def execEnc (v : Int) (s : State) : Host.Outcome State Fault Refusal :=
  .next <| withPrelude (fun s =>
    if v < 0 ∨ v ≥ ulidBound then raise .rangeValue 0 s
    else respond (emission (BitVec.ofNat 128 v.toNat)) s) s

/-- ENCTS (R61). -/
def execEncts (t : Int) (s : State) : Host.Outcome State Fault Refusal :=
  .next <| withPrelude (fun s =>
    if t < 0 ∨ t > maxEpochTime then raise .rangeTs 0 s
    else respond (timeEmission (BitVec.ofNat 48 t.toNat)) s) s

end Sys2Proof.Machine
end

