-- ==== Sys2Proof/Machine/Generator.lean ====
section
/-!
DEFINITION. The generator unit: GEN, GENM and INIT (42_generator.md R100, R101, R102).
-/

namespace Sys2Proof.Machine

/-- `emit({t, r})`: the response of a generator (R100, R101). -/
def emit (t : Millis) (r : Payload) (s : State) : State := respond (emission (t ++ r)) s

/-- The body of GEN for the time `t` (R100): one entropy sample, RNG_FAIL or the emission. It reads and writes no generator
register. -/
def generatePlain (t : Millis) (s : State) : State :=
  if (entSample s).ok = 0 then raiseRngFail (takeEnt s)
  else emit t (entSample s).ent (takeEnt s)

/-- GENM's new-millisecond transition (R101). -/
def newMillisecond (t : Millis) (s : State) : State :=
  if (entSample s).ok = 0 then raiseRngFail (takeEnt s)
  else emit t (entSample s).ent (writeTs t (writeRnd (entSample s).ent (takeEnt s)))

/-- GENM's same-millisecond transition (R101): UNINIT while LAST_RND holds no value, OVERFLOW at the maximum, else the
incremented payload. No port is sampled. -/
def sameMillisecond (t : Millis) (s : State) : State :=
  match heldRnd s with
  | none => raise .uninit 0 s
  | some r =>
    if r.toNat = maxRandomness then raise .overflow 0 s
    else emit t (r + 1) (writeRnd (r + 1) s)

/-- GENM for the time `t`: the transition is chosen by equality of the millisecond values (R101). -/
def generateMonotonic (t : Millis) (s : State) : State :=
  if t ≠ s.lastTs then newMillisecond t s else sameMillisecond t s

/-- INIT's writes (R102). -/
def loadGenerator (its : Millis) (irv : BitVec 1) (irnd : Payload) (s : State) : State :=
  if irv = 1 then writeTs its (writeRnd irnd s) else writeTs its (unsetRnd s)

/-- GEN (R100). -/
def execGen (sel : BitVec 1) (tseed : Millis) (s : State) : Host.Outcome State Fault Refusal :=
  .next <| withPrelude (fun s => generatePlain (selectedTime sel tseed s) (afterTime sel s)) s

/-- GENM (R101). -/
def execGenm (sel : BitVec 1) (tseed : Millis) (s : State) : Host.Outcome State Fault Refusal :=
  .next <| withPrelude (fun s => generateMonotonic (selectedTime sel tseed s) (afterTime sel s)) s

/-- INIT (R102). -/
def execInit (its : Millis) (irv : BitVec 1) (irnd : Payload) (s : State) : Host.Outcome State Fault Refusal :=
  .next <| withPrelude (fun s => respond (blankResponse .ok 0) (loadGenerator its irv irnd s)) s

end Sys2Proof.Machine
end

