-- ==== Sys2Proof/Machine/Dispatch.lean ====
section
/-!
DEFINITION. The dispatch: one arm per command of the opcode table.
-/

namespace Sys2Proof.Machine

/-- What a decoded command does, its prelude included (00_scope.md R12, 60_exceptions.md R123). -/
def exec (i : Instr) (s : State) : Host.Outcome State Fault Refusal :=
  match i with
  -- encoder unit
  | .enc v => Sys2Proof.Machine.execEnc v s
  | .encts t => Sys2Proof.Machine.execEncts t s
  -- decoder unit
  | .decg groups => Sys2Proof.Machine.execDecg groups s
  | .dec len chars => Sys2Proof.Machine.execDec len chars s
  -- generator unit
  | .gen sel tseed => Sys2Proof.Machine.execGen sel tseed s
  | .genm sel tseed => Sys2Proof.Machine.execGenm sel tseed s
  | .init its irv irnd => Sys2Proof.Machine.execInit its irv irnd s

end Sys2Proof.Machine
end

