-- ==== Sys2Proof/Machine/Step.lean ====
section
/-!
DEFINITION. One step: the port's next event, performed as one atomic transition (00_scope.md R12, 20_memory.md R46, R48).
-/

namespace Sys2Proof.Machine

/-- One step of the machine: nothing presented, the block waits; the reset input is asserted (R140); or a command is accepted:
it is stuck before the first reset (R141), an illegal word raises ILLEGAL (R55), and a legal one is executed. -/
def step (s : State) : Host.Outcome State Fault Refusal :=
  match s.pending with
  | [] => .next (waitIdle s)
  | .reset :: rest => .next (resetInput (acceptEvent rest s))
  | .command c :: rest =>
    if s.wasReset then
      match decode c with
      | .ok i => exec i (acceptEvent rest s)
      | .error (.illegal cmd) => .next (refuseIllegal cmd (acceptEvent rest s))
    else .fault .notReset

/-- `s` with the command of an opcode-table word presented first, so that the next step accepts and performs exactly it (log
entry 8). -/
def State.withFetchWord (s : State) (nbits w : Nat) : State := presentFirst (tableCommand nbits w) s

end Sys2Proof.Machine
end

