-- ==== Sys2Proof/Machine/Assembler.lean ====
section
/-!
DEFINITION. The spec's notation for commands (30_encoding.md R57 to R59): assembler lines, the draws written after them, the
pseudo-instructions, and listings. None of it is part of a step; it says which instruction a line stands for.
DESIGN CHOICE (log entry 13): how the words of a line are separated, that an unclosed quote, a sample out of its place or a
second sample for one port makes a line unreadable, and that an unreadable line gives nothing.
-/

namespace Sys2Proof.Machine

/-! ### Lines (R57, R58) -/

/-- One line of R57's table or one pseudo-instruction of R58. -/
inductive AsmLine where
  /-- `ENC <int>`. -/
  | enc (v : Int)
  /-- `ENCTS <int>`. -/
  | encts (t : Int)
  /-- `DECG <g0>, ..., <g25>`. -/
  | decgGroups (g : Vector Group 26)
  /-- `DECG "<26 alphabet characters>"`. -/
  | decgSymbols (s : List Code)
  /-- `DEC "<string>"`. -/
  | dec (s : List Code)
  /-- `GEN clk`. -/
  | genClk
  /-- `GEN seed=<t>`. -/
  | genSeed (t : Millis)
  /-- `GENM clk`. -/
  | genmClk
  /-- `GENM seed=<t>`. -/
  | genmSeed (t : Millis)
  /-- `INIT <ts>, <rnd>`. -/
  | init (ts : Millis) (rnd : Payload)
  /-- `INIT <ts>, unset`. -/
  | initUnset (ts : Millis)
  /-- The pseudo-instruction `NEWGEN`, `INIT 0, unset` (R58). -/
  | newgen
  /-- The pseudo-instruction `ULID <t>, <r>`, `ENC <(t << 80) | r>` (R58). -/
  | ulid (t : Millis) (r : Payload)
  deriving DecidableEq, Repr

/-- The first 26 characters of a string, 0x00 for the rest (R57). -/
def firstChars (s : List Code) : Vector Code 26 := Vector.ofFn fun i => s.getD i.val 0

/-- The instruction a line stands for (R57, R58); none for a `DECG` string that is not 26 alphabet characters. -/
def assemble : AsmLine → Option Instr
  | .enc v => some (.enc v)
  | .encts t => some (.encts t)
  | .decgGroups g => some (.decg g)
  | .decgSymbols s =>
    if s.length = 26 ∧ firstBadChar false (firstChars s) = none then some (.decg (charGroups false (firstChars s)))
    else none
  | .dec s => some (.dec s.length (firstChars s))
  | .genClk => some (.gen 0 0)
  | .genSeed t => some (.gen 1 t)
  | .genmClk => some (.genm 0 0)
  | .genmSeed t => some (.genm 1 t)
  | .init ts rnd => some (.init ts 1 rnd)
  | .initUnset ts => some (.init ts 0 0)
  | .newgen => some (.init 0 0 0)
  | .ulid t r => some (.enc ((t.toNat <<< 80 ||| r.toNat : Nat) : Int))

/-- One line of a program with the samples written after it in braces (R57): inputs of the run, not part of the encoding. -/
structure AsmStep where
  /-- The line. -/
  line : AsmLine
  /-- The sample of `draw_CLK`, where one is written. -/
  clk : Option Millis
  /-- The sample of `draw_ENT`, where one is written. -/
  ent : Option Entropy
  deriving DecidableEq, Repr

/-- A program put at the ports of `s`, behind what they hold: its commands at the command port, its samples at the clock and
entropy ports, in program order. None where a line assembles to nothing. -/
def loadProgram : List AsmStep → State → Option State
  | [], s => some s
  | p :: ps, s =>
    match assemble p.line with
    | none => none
    | some i =>
      loadProgram ps
        { s with
          pending := s.pending ++ [.command (encode i)]
          clkIn := s.clkIn ++ p.clk.toList
          entIn := s.entIn ++ p.ent.toList }

/-! ### Text (R57): tokens, numbers, lines -/

/-- A blank-separated or comma-separated word, or a quoted string. -/
inductive Token where
  /-- A word. -/
  | word (s : String)
  /-- The text between two double quotes. -/
  | quoted (s : String)
  deriving DecidableEq, Repr

/-- The word read so far, kept in reverse, in front of the tokens that follow it. -/
def flushWord (cur : List Char) (rest : Option (List Token)) : Option (List Token) :=
  if cur = [] then rest else rest.map (.word (String.ofList cur.reverse) :: ·)

/-- The tokens of one line; `quote` says whether the reader stands inside a quoted string. A `;` outside quotes starts a
comment (R57). DESIGN CHOICE (log entry 13): a quote never closed on its line makes the line unreadable. 34 and 9 are the codes
of the double quote and the tab. -/
def tokens : List Char → List Char → Bool → Option (List Token)
  | [], _, true => none
  | [], cur, false => flushWord cur (some [])
  | ch :: rest, cur, true =>
    if ch.toNat = 34 then (tokens rest [] false).map (.quoted (String.ofList cur.reverse) :: ·)
    else tokens rest (ch :: cur) true
  | ch :: rest, cur, false =>
    if ch = ';' then flushWord cur (some [])
    else if ch.toNat = 34 then flushWord cur (tokens rest [] true)
    else if ch = ' ' ∨ ch = ',' ∨ ch.toNat = 9 then flushWord cur (tokens rest [] false)
    else tokens rest (ch :: cur) false

/-- The value of one digit, if it is below `base`. -/
def digitValue (base : Nat) (ch : Char) : Option Nat :=
  let d :=
    if '0' ≤ ch ∧ ch ≤ '9' then ch.toNat - 48
    else if 'A' ≤ ch ∧ ch ≤ 'F' then ch.toNat - 55
    else if 'a' ≤ ch ∧ ch ≤ 'f' then ch.toNat - 87
    else base
  if d < base then some d else none

/-- The value of a digit string read after the value `acc`. -/
def digitsValue (base : Nat) : List Char → Nat → Option Nat
  | [], acc => some acc
  | ch :: rest, acc =>
    match digitValue base ch with
    | none => none
    | some d => digitsValue base rest (acc * base + d)

/-- A natural number: decimal, or hex with `0x` (R57). -/
def natural : List Char → Option Nat
  | [] => none
  | ['0', 'x'] => none
  | '0' :: 'x' :: ds => digitsValue 16 ds 0
  | ds => digitsValue 10 ds 0

/-- An integer: a leading `-` is allowed (R57). -/
def integer : List Char → Option Int
  | '-' :: ds => (natural ds).map fun n => -(n : Int)
  | ds => (natural ds).map fun n => (n : Int)

/-- A number that fits an `n`-bit field. -/
def fieldValue (n : Nat) (ds : List Char) : Option (BitVec n) :=
  match natural ds with
  | some v => if v < 2 ^ n then some (BitVec.ofNat n v) else none
  | none => none

/-- What follows `pre` in a word that begins with it. -/
def afterMark : List Char → List Char → Option (List Char)
  | [], ds => some ds
  | p :: ps, d :: ds => if p = d then afterMark ps ds else none
  | _ :: _, [] => none

/-- The codes of a string's characters, one byte each (R24). -/
def stringCodes (s : String) : List Code := s.toList.map fun ch => BitVec.ofNat 8 ch.toNat

/-- The codes of a quoted string, where every character has a code of one byte. -/
def quotedCodes (s : String) : Option (List Code) :=
  if s.toList.all fun ch => decide (ch.toNat < 256) then some (stringCodes s) else none

/-- The values of a list of group words. -/
def groupValues : List Token → Option (List Group)
  | [] => some []
  | .word w :: rest =>
    match fieldValue 5 w.toList, groupValues rest with
    | some g, some gs => some (g :: gs)
    | _, _ => none
  | .quoted _ :: _ => none

/-- The time operand of GEN and GENM: `clk`, or `seed=<t>` (R57). -/
def timeOperand (w : String) : Option (Option Millis) :=
  if w = "clk" then some none
  else
    match afterMark "seed=".toList w.toList with
    | some ds => (fieldValue 48 ds).map some
    | none => none

/-- The line its tokens stand for (R57, R58). -/
def lineOf : List Token → Option AsmLine
  | [.word "ENC", .word n] => (integer n.toList).map .enc
  | [.word "ENCTS", .word n] => (integer n.toList).map .encts
  | [.word "DECG", .quoted s] => (quotedCodes s).map .decgSymbols
  | .word "DECG" :: gs =>
    match groupValues gs with
    | some l => if h : l.length = 26 then some (.decgGroups ⟨l.toArray, by simpa using h⟩) else none
    | none => none
  | [.word "DEC", .quoted s] => (quotedCodes s).map .dec
  | [.word "GEN", .word w] => (timeOperand w).map fun t => t.elim .genClk .genSeed
  | [.word "GENM", .word w] => (timeOperand w).map fun t => t.elim .genmClk .genmSeed
  | [.word "INIT", .word t, .word "unset"] => (fieldValue 48 t.toList).map .initUnset
  | [.word "INIT", .word t, .word r] =>
    match fieldValue 48 t.toList, fieldValue 80 r.toList with
    | some ts, some rnd => some (.init ts rnd)
    | _, _ => none
  | [.word "NEWGEN"] => some .newgen
  | [.word "ULID", .word t, .word r] =>
    match fieldValue 48 t.toList, fieldValue 80 r.toList with
    | some ts, some rnd => some (.ulid ts rnd)
    | _, _ => none
  | _ => none

/-- The text between an opening and a closing brace, the whole word being of that form; 123 and 125 are the codes of the
braces. -/
def braced : List Char → Option (List Char)
  | ch :: rest => if ch.toNat = 123 ∧ rest.getLast?.map Char.toNat = some 125 then some rest.dropLast else none
  | [] => none

/-- One written sample (R57), `clk=<t>`, `ent=<r>` or `ent=fail`, added to a line. DESIGN CHOICE (log entry 13): a second
sample for the same port makes the line unreadable; a command takes at most one from each (10_state.md R27, R28). -/
def addDraw (w : String) (p : AsmStep) : Option AsmStep :=
  match braced w.toList with
  | none => none
  | some ds =>
    match afterMark "clk=".toList ds, afterMark "ent=".toList ds with
    | some t, _ => if p.clk = none then (fieldValue 48 t).map fun v => { p with clk := some v } else none
    | _, some r =>
      if p.ent ≠ none then none
      else if r = "fail".toList then some { p with ent := some ⟨0, 0⟩ }
      else (fieldValue 80 r).map fun v => { p with ent := some ⟨1, v⟩ }
    | _, _ => none

/-- The tokens behind a command, each a written sample, added to its line in order; none where one is anything else. -/
def withDraws : List Token → AsmStep → Option AsmStep
  | [], p => some p
  | .word w :: ts, p =>
    match addDraw w p with
    | some q => withDraws ts q
    | none => none
  | .quoted _ :: _, _ => none

/-- The token is a word in braces. -/
def isBraced : Token → Bool
  | .word w => (braced w.toList).isSome
  | .quoted _ => false

/-- One line of a program: its command, and the samples "written after it in braces" (R57). DESIGN CHOICE (log entry 13): a
line with a sample before the command's end is unreadable. -/
def parseLine (text : String) : Option AsmStep :=
  match tokens text.toList [] false with
  | none => none
  | some ts =>
    match lineOf (ts.takeWhile fun t => !isBraced t) with
    | some l => withDraws (ts.dropWhile fun t => !isBraced t) ⟨l, none, none⟩
    | none => none

/-! ### Listings (R59) -/

/-- One field of a listing: its name, its width in bits and its value. -/
structure ListField where
  /-- The field's name in R52. -/
  name : String
  /-- Its width in bits. -/
  width : Nat
  /-- Its value. -/
  value : Nat
  deriving DecidableEq, Repr

/-- The operand fields of a command in the order of R52 (R59). -/
def listFields (m : Mnemonic) (c : Command) : List ListField :=
  match m with
  | .ENC => [⟨"V_OOR", 1, c.vOor.toNat⟩, ⟨"V_W", 128, c.vW.toNat⟩]
  | .ENCTS => [⟨"T_OOR", 1, c.tOor.toNat⟩, ⟨"T_W", 48, c.tW.toNat⟩]
  | .DECG => [⟨"GRPV", 130, c.grpv.toNat⟩]
  | .DEC => [⟨"LEN_W", 16, c.lenW.toNat⟩, ⟨"CHRV", 208, c.chrv.toNat⟩]
  | .GEN => [⟨"TSEED", 48, c.tseed.toNat⟩]
  | .GENM => [⟨"TSEED", 48, c.tseed.toNat⟩]
  | .INIT => [⟨"ITS", 48, c.its.toNat⟩, ⟨"IRV", 1, c.irv.toNat⟩, ⟨"IRND", 80, c.irnd.toNat⟩]

/-- `k` hex digits of a value, upper case. -/
def hexDigits : Nat → Nat → List Char
  | 0, _ => []
  | k + 1, v => hexDigits k (v / 16) ++ ["0123456789ABCDEF".toList.getD (v % 16) '0']

/-- A value in hex at its width (R59). -/
def hexAt (width value : Nat) : String := String.ofList (hexDigits ((width + 3) / 4) value)

/-- The listing of an instruction: CMD in hex, then each field, separated by a bar (R59). -/
def listing (i : Instr) : String :=
  (listFields (mnemonicOf i) (encode i)).foldl (fun acc f => acc ++ " | " ++ f.name ++ "=" ++ hexAt f.width f.value)
    (hexAt 8 (encode i).cmd.toNat)

end Sys2Proof.Machine
end

