-- ==== Sys2Proof/Safety.lean ====
section
/-!
DEFINITION. The terms in which claims speak of the block: what a good response holds, which fields a command leaves alone, the
order of strings, and the invariant of the generator registers.
-/

namespace Sys2Proof.Safety

open Sys2Proof.Machine

/-! ### Responses, in plain numbers -/

/-- `r` reports OK and carries the 26 groups and characters of the value `v`, with `v` and its two fields (40_encode.md R60):
group `i` is the `i`-th base-32 digit of `v`, the most significant first. -/
structure EmitsValue (r : Response) (v : Nat) : Prop where
  err : r.err = 0x0
  info : r.info = 0x00
  nsym : r.nsym = 26
  grp : ∀ i : Fin 26, r.grp[i].toNat = v / 2 ^ (125 - 5 * i.val) % 32
  chr : ∀ i : Fin 26, r.chr[i] = sym r.grp[i]
  ts : r.ts.toNat = v / 2 ^ 80
  rnd : r.rnd.toNat = v % 2 ^ 80
  val : r.val.toNat = v

/-- `r` reports OK and carries the 10 groups and characters of the timestamp `t`, RND, VAL and the other entries 0 (R61). -/
structure EmitsTime (r : Response) (t : Nat) : Prop where
  err : r.err = 0x0
  info : r.info = 0x00
  nsym : r.nsym = 10
  grp : ∀ i : Fin 26, i.val < 10 → r.grp[i].toNat = t / 2 ^ (45 - 5 * i.val) % 32
  chr : ∀ i : Fin 26, i.val < 10 → r.chr[i] = sym r.grp[i]
  grpRest : ∀ i : Fin 26, 10 ≤ i.val → r.grp[i] = 0
  chrRest : ∀ i : Fin 26, 10 ≤ i.val → r.chr[i] = 0
  ts : r.ts.toNat = t
  rnd : r.rnd = 0
  val : r.val = 0

/-- `r` has no symbols: NSYM and every GRP and CHR entry are 0 (10_state.md R31). -/
structure NoSymbols (r : Response) : Prop where
  nsym : r.nsym = 0
  grp : ∀ i : Fin 26, r.grp[i] = 0
  chr : ∀ i : Fin 26, r.chr[i] = 0

/-- `r` reports OK and carries the decoded timestamp and randomness, and no symbols (41_decode.md R80). -/
structure DecodesTo (r : Response) (time random : Nat) : Prop where
  err : r.err = 0x0
  info : r.info = 0x00
  symbols : NoSymbols r
  ts : r.ts.toNat = time
  rnd : r.rnd.toNat = random
  val : r.val.toNat = time * 2 ^ 80 + random

/-- Every data field of `r` is 0 (R31). -/
structure NoData (r : Response) : Prop where
  symbols : NoSymbols r
  ts : r.ts = 0
  rnd : r.rnd = 0
  val : r.val = 0

/-- `r` is the response of a command that reports `code` and `info` and nothing else (R31, 60_exceptions.md R122). -/
structure Reports (r : Response) (code : BitVec 4) (info : BitVec 8) : Prop where
  err : r.err = code
  info : r.info = info
  data : NoData r

/-- The 32 characters of 00_scope.md R4, as codes. -/
def alphabet : List Code := stringCodes "0123456789ABCDEFGHJKMNPQRSTVWXYZ"

/-- The base-32 value of a list of groups, the first the most significant (20_memory.md R42). -/
def groupsValue (gs : List Group) : Nat := gs.foldl (fun acc g => acc * 32 + g.toNat) 0

/-! ### What a command leaves alone -/

/-- The four registers of 10_state.md R36 are the same. -/
structure SameRegisters (s t : State) : Prop where
  lastTs : t.lastTs = s.lastTs
  lastRnd : t.lastRnd = s.lastRnd
  rndValid : t.rndValid = s.rndValid
  fatal : t.fatal = s.fatal

/-- No port was sampled: the sample lists and the counts of samples are the same (R27, R28). -/
structure NoSample (s t : State) : Prop where
  clkIn : t.clkIn = s.clkIn
  clkDraws : t.clkDraws = s.clkDraws
  entIn : t.entIn = s.entIn
  entDraws : t.entDraws = s.entDraws

/-- The same answer with `f` done to its next state. -/
def mapNext (f : State → State) : Host.Outcome State Fault Refusal → Host.Outcome State Fault Refusal
  | .next s => .next (f s)
  | .fault r => .fault r
  | .refused r => .refused r

/-- A character code in upper case: the 26 ASCII lower-case letters lose 0x20, every other code stays (41_decode.md R83;
93_implementation_defined.md I1). -/
def upperCode (c : Code) : Code := if 0x61 ≤ c.toNat ∧ c.toNat ≤ 0x7A then c - 0x20 else c

/-! ### Order of strings -/

/-- String `a` is lexicographically less than string `b`: character codes compared as unsigned bytes from character 0
(40_encode.md R63). -/
def CodeLess (a b : Vector Code 26) : Prop := ∃ i : Fin 26, (∀ j : Fin 26, j < i → a[j] = b[j]) ∧ a[i] < b[i]

/-! ### Runs -/

/-- The nine legal command words (30_encoding.md R55). -/
def legalWords : List (BitVec 8) := [0x01, 0x02, 0x03, 0x04, 0x05, 0x15, 0x06, 0x16, 0x07]

/-- The response of a GENM command that this step performed with success. -/
def genmOutput (s t : State) : List Response :=
  match s.pending, t.response with
  | .command c :: _, some r => if opcodeOf c.cmd = some .GENM ∧ r.err = 0 then [r] else []
  | _, _ => []

/-- The responses of the successful GENM commands of the first `n` steps, in their order. -/
def genmOutputs : Nat → State → List Response
  | 0, _ => []
  | n + 1, s =>
    match step s with
    | .next t => genmOutput s t ++ genmOutputs n t
    | .fault _ => []
    | .refused _ => []

/-- The event neither resets the block nor loads the generator: no reset and no INIT (42_generator.md R104). -/
def KeepsGenerator : PortEvent → Prop
  | .reset => False
  | .command c => opcodeOf c.cmd ≠ some .INIT

/-! ### Invariant -/

/-- RND_VALID says whether LAST_RND holds a value (10_state.md R21, R22). -/
def TagAgrees (s : State) : Prop := s.rndValid = 1 ↔ s.lastRnd.isSome = true

/-- The generator registers hold the pair that the response `r` emitted: the next GENM compares its time with `r.ts`, and
increments `r.rnd` (42_generator.md R101, R104). -/
structure HoldsEmitted (r : Response) (s : State) : Prop where
  lastTs : s.lastTs = r.ts
  lastRnd : s.lastRnd = some r.rnd
  rndValid : s.rndValid = 1

/-- The block performs commands: it has been reset and is not in the fatal state (R124, R141). -/
def Alive (s : State) : Prop := s.wasReset = true ∧ s.fatal = 0

end Sys2Proof.Safety
end

