-- ==== Sys2Proof/Certificates/Slice0/Obligations.lean ====
section
/-!
DEFINITION. The statements for the provers, each from numbered rules of spec/. In every one, `s` is any state, reachable or
not, unless a premise says otherwise.
-/

open Sys2Proof Sys2Proof.Machine Sys2Proof.Safety

/-! ## Encoding -/

/-- Words written out from the encodings of 30_encoding.md (R52, R54) decode to the instructions they stand for: those of
95_test_vectors.md P1 to P4 (the GEN word is P4's step 2), and a DECG word packed from the groups of a string of its table 2.3. -/
def Obligations.ListedWordsDecode : Prop :=
  decode { cmd := 0x01, vW := 0x015F4BFFCD735334ADA78EDC1D4A6F1E } = .ok (.enc 1824037644831285921095405231938367262) ∧
  decode { cmd := 0x02, tW := 0x015F4BFFCD73 } = .ok (.encts 1508808576371) ∧
  decode { cmd := 0x03, grpv := 0x0FFFFFFFFFFFF00000000000000000000 } =
    .ok (.decg #v[7, 31, 31, 31, 31, 31, 31, 31, 31, 31, 0, 0, 0, 0, 0, 0, 0, 0, 0, 0, 0, 0, 0, 0, 0, 0]) ∧
  decode { cmd := 0x04, lenW := 0x001A, chrv := 0x3830303030303030303030303030303030303030303030303030 } =
    .ok (.dec 26 #v[0x38, 0x30, 0x30, 0x30, 0x30, 0x30, 0x30, 0x30, 0x30, 0x30, 0x30, 0x30, 0x30, 0x30, 0x30, 0x30, 0x30,
      0x30, 0x30, 0x30, 0x30, 0x30, 0x30, 0x30, 0x30, 0x30]) ∧
  decode { cmd := 0x15, tseed := 5 } = .ok (.gen 1 5) ∧
  decode { cmd := 0x06 } = .ok (.genm 0 0) ∧
  decode { cmd := 0x16, tseed := 0x015F4BFFCD74 } = .ok (.genm 1 1508808576372) ∧
  decode { cmd := 0x07, its := 0x015F4BFFCD73, irv := 1, irnd := 0xFFFFFFFFFFFFFFFFFFFE } =
    .ok (.init 1508808576371 1 1208925819614629174706174)

/-- 30_encoding.md R55: the decoder accepts exactly the nine legal words and rejects every other with itself. -/
def Obligations.LegalWordsAreTheNine : Prop :=
  ∀ c : Command,
    ((∃ i, decode c = .ok i) ↔ c.cmd ∈ legalWords) ∧
    (c.cmd ∉ legalWords → decode c = .error (.illegal c.cmd))

/-- opcode_table.json and R54: a command decodes to an instruction of a row exactly when its word agrees with the row's "match"
under its "mask". -/
def Obligations.OpcodeRowSelects : Prop :=
  ∀ (c : Command) (m : Mnemonic),
    (∃ i, decode c = .ok i ∧ mnemonicOf i = m) ↔ c.cmd &&& tableMask m = tableMatch m

/-- R50 to R53: decoding the lines a host presents for a well-formed instruction gives it back, for every instruction. -/
def Obligations.DecodeOfEncode : Prop :=
  ∀ i : Instr, i.wellFormed = true → decode (encode i) = .ok i

/-- R50 to R53: encoding a decoded command gives back its command word and every operand line its opcode reads; the word that
goes with an out-of-range flag is read only when the flag is 0. -/
def Obligations.DecodedLinesComeBack : Prop :=
  ∀ (c : Command) (i : Instr), decode c = .ok i →
    (encode i).cmd = c.cmd ∧
    (mnemonicOf i = .ENC → (encode i).vOor = c.vOor ∧ (c.vOor = 0 → (encode i).vW = c.vW)) ∧
    (mnemonicOf i = .ENCTS → (encode i).tOor = c.tOor ∧ (c.tOor = 0 → (encode i).tW = c.tW)) ∧
    (mnemonicOf i = .DECG → (encode i).grpv = c.grpv) ∧
    (mnemonicOf i = .DEC → (encode i).lenW = c.lenW ∧ (encode i).chrv = c.chrv) ∧
    (mnemonicOf i = .GEN → (encode i).tseed = c.tseed) ∧
    (mnemonicOf i = .GENM → (encode i).tseed = c.tseed) ∧
    (mnemonicOf i = .INIT → (encode i).its = c.its ∧ (encode i).irv = c.irv ∧ (encode i).irnd = c.irnd)

/-- R52 ("sees the same verdict as on the unbounded length") and R53 ("so the two views agree"): the command a host presents
for ANY instruction, with any integer and any string length, does what the instruction does. -/
def Obligations.PortViewAgrees : Prop :=
  ∀ (i : Instr) (s : State), ∃ j, decode (encode i) = .ok j ∧ exec j s = exec i s

/-- R53: the out-of-range flags and words of the two integer operands, the word ignored when the flag is 1, the verdict a
function of the flag alone, and groups and characters taken as presented. -/
def Obligations.IntegerOperandAssembly : Prop :=
  (∀ v : Int, ((encode (.enc v)).vOor = 1 ↔ v < 0 ∨ 2 ^ 128 ≤ v) ∧
    ((encode (.enc v)).vOor = 0 → ((encode (.enc v)).vW.toNat : Int) = v)) ∧
  (∀ t : Int, ((encode (.encts t)).tOor = 1 ↔ t < 0 ∨ 281474976710655 < t) ∧
    ((encode (.encts t)).tOor = 0 → ((encode (.encts t)).tW.toNat : Int) = t)) ∧
  (∀ (c : Command) (w : BitVec 128), c.cmd = 0x01 → c.vOor = 1 → decode { c with vW := w } = decode c) ∧
  (∀ (c : Command) (w : BitVec 48), c.cmd = 0x02 → c.tOor = 1 → decode { c with tW := w } = decode c) ∧
  (∀ (c : Command) (s : State), c.cmd = 0x01 → s.fatal = 0 →
    ∃ i t r, decode c = .ok i ∧ exec i s = .next t ∧ t.response = some r ∧ (r.err = 0x2 ↔ c.vOor = 1)) ∧
  (∀ (c : Command) (s : State), c.cmd = 0x02 → s.fatal = 0 →
    ∃ i t r, decode c = .ok i ∧ exec i s = .next t ∧ t.response = some r ∧ (r.err = 0x3 ↔ c.tOor = 1)) ∧
  (∀ g : Vector Group 26, decode (encode (.decg g)) = .ok (.decg g)) ∧
  (∀ (len : Nat) (chars : Vector Code 26), ∃ n, decode (encode (.dec len chars)) = .ok (.dec n chars))

/-- 20_memory.md R44: element `i` of a packed group or character vector stands at its slice, and the group vector of a value is
the padded value. -/
def Obligations.FieldPacking : Prop :=
  (∀ (g : Vector Group 26) (i : Fin 26), (packGroups g).toNat / 2 ^ (125 - 5 * i.val) % 32 = g[i].toNat) ∧
  (∀ (chars : Vector Code 26) (i : Fin 26), (packChars chars).toNat / 2 ^ (200 - 8 * i.val) % 256 = chars[i].toNat) ∧
  (∀ x : Ulid, (packGroups (emission x).grp).toNat = x.toNat)

/-! ## The encoder unit -/

/-- 40_encode.md R60: ENC, in full: its word, its response on every integer, and that nothing but the response changes. -/
def Obligations.EncResult : Prop :=
  ∀ (v : Int) (s : State), s.fatal = 0 →
    (encode (.enc v)).cmd = 0x01 ∧
    ∃ r, exec (.enc v) s = .next { s with response := some r } ∧
      (0 ≤ v → v < 2 ^ 128 → EmitsValue r v.toNat) ∧
      (v < 0 ∨ 2 ^ 128 ≤ v → Reports r 0x2 0x00)

/-- R61: ENCTS, in full. -/
def Obligations.EnctsResult : Prop :=
  ∀ (t : Int) (s : State), s.fatal = 0 →
    (encode (.encts t)).cmd = 0x02 ∧
    ∃ r, exec (.encts t) s = .next { s with response := some r } ∧
      (0 ≤ t → t ≤ 281474976710655 → EmitsTime r t.toNat) ∧
      (t < 0 ∨ 281474976710655 < t → Reports r 0x3 0x00)

/-- R62 (the spec's own inference, "[derived: from rule R60, rule R61 ...]"): the first 10 groups and characters of ENC are
those of ENCTS of the value's timestamp, and the other 16 depend on the low 80 bits alone. -/
def Obligations.PrefixLaw : Prop :=
  ∀ (v v' : Int) (s : State), 0 ≤ v → v < 2 ^ 128 → 0 ≤ v' → v' < 2 ^ 128 → s.fatal = 0 →
    ∃ r r' q, exec (.enc v) s = .next { s with response := some r } ∧
      exec (.enc v') s = .next { s with response := some r' } ∧
      exec (.encts (v / 2 ^ 80)) s = .next { s with response := some q } ∧
      (∀ i : Fin 26, i.val < 10 → r.grp[i] = q.grp[i] ∧ r.chr[i] = q.chr[i]) ∧
      (v % 2 ^ 80 = v' % 2 ^ 80 → ∀ i : Fin 26, 10 ≤ i.val → r.grp[i] = r'.grp[i] ∧ r.chr[i] = r'.chr[i])

/-- R63 (the spec's own inference): the strings of ENC are in the lexicographic order of the values, by
the character codes of log entry 12. -/
def Obligations.OrderLaw : Prop :=
  ∀ (v1 v2 : Int) (s : State), 0 ≤ v1 → v1 < v2 → v2 < 2 ^ 128 → s.fatal = 0 →
    ∃ r1 r2, exec (.enc v1) s = .next { s with response := some r1 } ∧
      exec (.enc v2) s = .next { s with response := some r2 } ∧ CodeLess r1.chr r2.chr

/-- A successful ENC has 26 characters of the alphabet and a successful ENCTS 10 (R64, the spec's own inference); a successful
GEN or GENM has 26, by `emit` (R100, R101; 95_test_vectors.md S7). The codes are those of log entry 12. -/
def Obligations.OutputsAreAlphabetic : Prop :=
  ∀ (i : Instr) (s t : State) (r : Response), exec i s = .next t → t.response = some r → r.err = 0 →
    (mnemonicOf i = .ENC ∨ mnemonicOf i = .GEN ∨ mnemonicOf i = .GENM →
      r.nsym = 26 ∧ ∀ k : Fin 26, r.chr[k] ∈ alphabet) ∧
    (mnemonicOf i = .ENCTS → r.nsym = 10 ∧ ∀ k : Fin 26, k.val < 10 → r.chr[k] ∈ alphabet)

/-! ## The decoder unit -/

/-- 41_decode.md R80: DECG, in full: the timestamp is the value of the first 10 groups, the randomness that of the last 16; the
check fails exactly when G[0] is 8 or more. -/
def Obligations.DecgResult : Prop :=
  ∀ (g : Vector Group 26) (s : State), s.fatal = 0 →
    (encode (.decg g)).cmd = 0x03 ∧
    (281474976710655 < groupsValue (g.toList.take 10) ↔ 8 ≤ g[0].toNat) ∧
    ∃ r, exec (.decg g) s = .next { s with response := some r } ∧
      (groupsValue (g.toList.take 10) ≤ 281474976710655 →
        DecodesTo r (groupsValue (g.toList.take 10)) (groupsValue (g.toList.drop 10))) ∧
      (281474976710655 < groupsValue (g.toList.take 10) → Reports r 0x6 (g[0].setWidth 8))

/-- R81: DEC, in full: length, then the lowest bad position, then R80's check on the groups of the characters. -/
def Obligations.DecResult : Prop :=
  ∀ (len : Nat) (chars : Vector Code 26) (s : State), s.fatal = 0 →
    (encode (.dec len chars)).cmd = 0x04 ∧
    ∃ r, exec (.dec len chars) s = .next { s with response := some r } ∧
      (len ≠ 26 → Reports r 0x4 (BitVec.ofNat 8 (min len 255))) ∧
      (∀ i : Fin 26, len = 26 → unsym s.cfg.caseFold chars[i] = none →
        (∀ j : Fin 26, j < i → unsym s.cfg.caseFold chars[j] ≠ none) → Reports r 0x5 (BitVec.ofNat 8 i.val)) ∧
      (∀ g : Vector Group 26, len = 26 → (∀ i : Fin 26, unsym s.cfg.caseFold chars[i] = some g[i]) →
        (groupsValue (g.toList.take 10) ≤ 281474976710655 →
          DecodesTo r (groupsValue (g.toList.take 10)) (groupsValue (g.toList.drop 10))) ∧
        (281474976710655 < groupsValue (g.toList.take 10) → Reports r 0x6 (g[0].setWidth 8)))

/-- R82 (the spec's own inference): decoding what ENC produced, as characters or as groups, gives the value and its two
fields back, for every 128-bit value and both settings of CASE_FOLD. -/
def Obligations.DecodeUndoesEncode : Prop :=
  ∀ (v : Int) (s : State), 0 ≤ v → v < 2 ^ 128 → s.fatal = 0 →
    ∃ r rc rg, exec (.enc v) s = .next { s with response := some r } ∧
      exec (.dec 26 r.chr) s = .next { s with response := some rc } ∧
      exec (.decg r.grp) s = .next { s with response := some rg } ∧
      DecodesTo rc (v.toNat / 2 ^ 80) (v.toNat % 2 ^ 80) ∧ rc.val.toNat = v.toNat ∧
      DecodesTo rg (v.toNat / 2 ^ 80) (v.toNat % 2 ^ 80) ∧ rg.val.toNat = v.toNat

/-- R83 (the spec's own inference): encoding what DECG or DEC decoded gives the groups back, and the string back in upper case;
the encoder produces no lower-case character. The codes and the upper-case map are those of log entry 12. -/
def Obligations.EncodeUndoesDecode : Prop :=
  (∀ (g : Vector Group 26) (s : State), g[0].toNat ≤ 7 → s.fatal = 0 →
    ∃ r q, exec (.decg g) s = .next { s with response := some r } ∧ r.err = 0 ∧
      exec (.enc r.val.toNat) s = .next { s with response := some q } ∧ q.grp = g) ∧
  (∀ (chars : Vector Code 26) (s : State) (r : Response), s.fatal = 0 →
    exec (.dec 26 chars) s = .next { s with response := some r } → r.err = 0 →
    ∃ q, exec (.enc r.val.toNat) s = .next { s with response := some q } ∧
      (s.cfg.caseFold = false → q.chr = chars) ∧
      (s.cfg.caseFold = true → ∀ i : Fin 26, q.chr[i] = upperCode chars[i])) ∧
  (∀ (v : Int) (s : State) (r : Response) (i : Fin 26), exec (.enc v) s = .next { s with response := some r } →
    r.chr[i].toNat < 0x61)

/-- R84 (the spec's own inference): on 26 characters of the alphabet DEC raises VALUE_TS exactly when the first has an index
of 8 or more, so on the 24 characters `8` to `Z` and on none of `0` to `7` (by the codes of log entry 12). -/
def Obligations.LeadingCharacterLaw : Prop :=
  ∀ (chars : Vector Code 26) (s : State), s.fatal = 0 →
    (∀ i : Fin 26, unsym s.cfg.caseFold chars[i] ≠ none) →
    ∃ r, exec (.dec 26 chars) s = .next { s with response := some r } ∧
      (r.err = 0x6 ↔ ∃ k, unsym s.cfg.caseFold chars[0] = some k ∧ 8 ≤ k.toNat) ∧
      (chars[0] ∈ stringCodes "01234567" → r.err = 0x0) ∧
      (chars[0] ∈ stringCodes "89ABCDEFGHJKMNPQRSTVWXYZ" → r.err = 0x6)

/-- 10_state.md R25: the inverse map gives `k` exactly for SYM[k] and, with CASE_FOLD, its lower-case code; hence the codes the
rule lists map to no index. The codes are the spec's general knowledge (93_implementation_defined.md I1, I3; log entry 12). -/
def Obligations.InverseAlphabet : Prop :=
  (∀ (caseFold : Bool) (c : Code) (k : Group),
    unsym caseFold c = some k ↔ c = sym k ∨ (caseFold = true ∧ lowerCode k = some c)) ∧
  (∀ (caseFold : Bool) (c : Code),
    c ∈ stringCodes "ILOUilou" ∨ 0x80 ≤ c.toNat ∨ c.toNat < 0x20 ∨ c.toNat = 0x7F ∨
      (0x20 ≤ c.toNat ∧ c.toNat ≤ 0x2F) ∨ (0x3A ≤ c.toNat ∧ c.toNat ≤ 0x40) ∨ (0x5B ≤ c.toNat ∧ c.toNat ≤ 0x60) ∨
      (0x7B ≤ c.toNat ∧ c.toNat ≤ 0x7E) → unsym caseFold c = none) ∧
  (∀ c : Code, 0x61 ≤ c.toNat → c.toNat ≤ 0x7A → unsym false c = none)

/-- R26 (the spec's own inference): the ROM's codes (log entry 12) increase with the index, as unsigned bytes. -/
def Obligations.AlphabetIncreases : Prop :=
  ∀ k1 k2 : Group, k1 < k2 → (sym k1).toNat < (sym k2).toNat

/-! ## The generator unit -/

/-- 42_generator.md R100: GEN, in full: the clock is sampled only when S = 0, the entropy port once, no generator register is
read or written, and a failed sample raises RNG_FAIL and sets FATAL. Derived: the sample lists that give up their first entry and
the counts of samples that grow are the model's choice (log entry 3). -/
def Obligations.GenResult : Prop :=
  ∀ (sel : BitVec 1) (seed : Millis) (s t : State), s.fatal = 0 →
    t = { s with
      clkIn := if sel = 1 then s.clkIn else s.clkIn.tail
      clkDraws := if sel = 1 then s.clkDraws else s.clkDraws + 1
      entIn := s.entIn.tail
      entDraws := s.entDraws + 1 } →
    (encode (.gen sel seed)).cmd = (if sel = 1 then 0x15 else 0x05) ∧
    ((entSample s).ok = 1 →
      ∃ r, exec (.gen sel seed) s = .next { t with response := some r } ∧
        EmitsValue r ((if sel = 1 then seed else clkSample s).toNat * 2 ^ 80 + (entSample s).ent.toNat)) ∧
    ((entSample s).ok = 0 →
      ∃ r, exec (.gen sel seed) s = .next { t with fatal := 1, response := some r } ∧ Reports r 0x8 0x00)

/-- R101: GENM, in full: the transition by equality of the selected time with LAST_TS; on a new millisecond one entropy sample,
RNG_FAIL or the load of all three registers; on the same millisecond no entropy sample, UNINIT while RND_VALID = 0, OVERFLOW at
2^80 − 1, else the increment, which does not wrap. Derived: the sample lists and the counts of samples are the model's choice (log
entry 3), and so is the one form no clause is about, RND_VALID = 1 beside an unset LAST_RND (log entry 5), which `TagAgrees`
rules out. -/
def Obligations.GenmResult : Prop :=
  ∀ (sel : BitVec 1) (seed time : Millis) (s c : State), s.fatal = 0 →
    time = (if sel = 1 then seed else clkSample s) →
    c = { s with
      clkIn := if sel = 1 then s.clkIn else s.clkIn.tail
      clkDraws := if sel = 1 then s.clkDraws else s.clkDraws + 1 } →
    (encode (.genm sel seed)).cmd = (if sel = 1 then 0x16 else 0x06) ∧
    (time ≠ s.lastTs → (entSample s).ok = 1 →
      ∃ r, exec (.genm sel seed) s = .next { c with
          entIn := s.entIn.tail
          entDraws := s.entDraws + 1
          lastTs := time
          lastRnd := some (entSample s).ent
          rndValid := 1
          response := some r } ∧
        EmitsValue r (time.toNat * 2 ^ 80 + (entSample s).ent.toNat)) ∧
    (time ≠ s.lastTs → (entSample s).ok = 0 →
      ∃ r, exec (.genm sel seed) s = .next { c with
          entIn := s.entIn.tail
          entDraws := s.entDraws + 1
          fatal := 1
          response := some r } ∧ Reports r 0x8 0x00) ∧
    (time = s.lastTs → s.rndValid = 0 →
      ∃ r, exec (.genm sel seed) s = .next { c with response := some r } ∧ Reports r 0x9 0x00) ∧
    (∀ n, time = s.lastTs → s.rndValid = 1 → s.lastRnd = some n → n.toNat = 2 ^ 80 - 1 →
      ∃ r, exec (.genm sel seed) s = .next { c with response := some r } ∧ Reports r 0x7 0x00) ∧
    (∀ n, time = s.lastTs → s.rndValid = 1 → s.lastRnd = some n → n.toNat < 2 ^ 80 - 1 →
      ∃ r m, m.toNat = n.toNat + 1 ∧
        exec (.genm sel seed) s = .next { c with lastRnd := some m, response := some r } ∧
        EmitsValue r (time.toNat * 2 ^ 80 + m.toNat))

/-- R102: INIT, in full: it loads LAST_TS, and LAST_RND with RND_VALID = 1 or makes LAST_RND unset with RND_VALID = 0; nothing
else changes but the response, which is OK with every data field 0; while FATAL = 1 it is refused; after loading the maximum
randomness, GENM at the loaded time raises OVERFLOW. -/
def Obligations.InitResult : Prop :=
  ∀ (its : Millis) (irv : BitVec 1) (irnd : Payload) (s : State),
    (encode (.init its irv irnd)).cmd = 0x07 ∧
    (s.fatal = 0 → irv = 1 → ∃ r, Reports r 0x0 0x00 ∧ exec (.init its irv irnd) s =
      .next { s with lastTs := its, lastRnd := some irnd, rndValid := 1, response := some r }) ∧
    (s.fatal = 0 → irv = 0 → ∃ r, Reports r 0x0 0x00 ∧ exec (.init its irv irnd) s =
      .next { s with lastTs := its, lastRnd := none, rndValid := 0, response := some r }) ∧
    (s.fatal = 1 → ∃ r, Reports r 0xB 0x00 ∧ exec (.init its irv irnd) s = .next { s with response := some r }) ∧
    (s.fatal = 0 → irv = 1 → irnd.toNat = 2 ^ 80 - 1 →
      ∃ t u r, exec (.init its irv irnd) s = .next t ∧ exec (.genm 1 its) t = .next u ∧ u.response = some r ∧
        Reports r 0x7 0x00)

/-- R104 (the spec's own inference; log entry 11 for its reading): over any run of any length from any state, with no reset and
no INIT among the events, if the timestamps of the successful GENM commands never decrease, their strings strictly increase (by
the codes of log entry 12). -/
def Obligations.MonotonicRunIncreases : Prop :=
  ∀ (n : Nat) (s : State), (∀ e ∈ s.pending, KeepsGenerator e) →
    (genmOutputs n s).Pairwise (fun a b => a.ts.toNat ≤ b.ts.toNat) →
    (genmOutputs n s).Pairwise (fun a b => CodeLess a.chr b.chr)

/-- R104 ("If t2 < t1, no order holds: s2 may be less than s1"), with the values of 95_test_vectors.md table 2.6: two successive
successful GENM commands whose second string is less. -/
def Obligations.BackwardTimeCanDecrease : Prop :=
  ∃ s t u r1 r2, Alive s ∧ exec (.genm 1 1) s = .next t ∧ exec (.genm 1 0) t = .next u ∧
    t.response = some r1 ∧ u.response = some r2 ∧ r1.err = 0 ∧ r2.err = 0 ∧ CodeLess r2.chr r1.chr

/-- R106 (the spec's own inference): two successful GEN commands with times t1 < t2 emit strings in increasing order; with equal
times the order is that of the entropy samples (strings by the codes of log entry 12). -/
def Obligations.PlainGeneratorOrder : Prop :=
  ∀ (a b : BitVec 1) (x y : Millis) (s1 t1 s2 t2 : State) (r1 r2 : Response),
    exec (.gen a x) s1 = .next t1 → t1.response = some r1 → r1.err = 0 →
    exec (.gen b y) s2 = .next t2 → t2.response = some r2 → r2.err = 0 →
    ((selectedTime a x s1).toNat < (selectedTime b y s2).toNat → CodeLess r1.chr r2.chr) ∧
    (selectedTime a x s1 = selectedTime b y s2 →
      (CodeLess r1.chr r2.chr ↔ (entSample s1).ent.toNat < (entSample s2).ent.toNat))

/-- R107 (the spec's own inference): after OVERFLOW the registers are unchanged, every further GENM at LAST_TS raises OVERFLOW
again, and one at another time with a good entropy sample succeeds. -/
def Obligations.OverflowRecovery : Prop :=
  ∀ (sel : BitVec 1) (seed : Millis) (s t : State) (r : Response),
    exec (.genm sel seed) s = .next t → t.response = some r → r.err = 0x7 →
    SameRegisters s t ∧
    ∀ (sel' : BitVec 1) (seed' : Millis),
      (selectedTime sel' seed' t = t.lastTs →
        ∃ u q, exec (.genm sel' seed') t = .next u ∧ u.response = some q ∧ Reports q 0x7 0x00 ∧ SameRegisters t u) ∧
      (selectedTime sel' seed' t ≠ t.lastTs → (entSample t).ok = 1 →
        ∃ u q, exec (.genm sel' seed') t = .next u ∧ u.response = some q ∧
          EmitsValue q ((selectedTime sel' seed' t).toNat * 2 ^ 80 + (entSample t).ent.toNat))

/-- R108 (the spec's own inference): what GEN or GENM emits has its timestamp in range, and DEC accepts it and gives its fields
back. -/
def Obligations.EmittedStringsDecode : Prop :=
  ∀ (i : Instr) (s t u : State) (r : Response), mnemonicOf i = .GEN ∨ mnemonicOf i = .GENM →
    exec i s = .next t → t.response = some r → r.err = 0 → u.fatal = 0 →
    r.ts.toNat ≤ 281474976710655 ∧
    ∃ q, exec (.dec 26 r.chr) u = .next { u with response := some q } ∧ DecodesTo q r.ts.toNat r.rnd.toNat

/-- R51, R27, R28: the clock is sampled once by a GEN or GENM whose S is 0 and by no other command; the entropy port once by a
GEN and by a GENM on a new millisecond and by no other command; a refused command samples neither. A sample
is the model's list giving up its first entry and the model's count growing by one (log entry 3). -/
def Obligations.PortSampling : Prop :=
  ∀ (i : Instr) (s t : State), exec i s = .next t →
    (s.fatal = 0 → (∃ x, i = .gen 0 x ∨ i = .genm 0 x) →
      t.clkIn = s.clkIn.tail ∧ t.clkDraws = s.clkDraws + 1) ∧
    (s.fatal = 1 ∨ (∀ x, i ≠ .gen 0 x ∧ i ≠ .genm 0 x) → t.clkIn = s.clkIn ∧ t.clkDraws = s.clkDraws) ∧
    (s.fatal = 0 → (∃ sel x, i = .gen sel x ∨ (i = .genm sel x ∧ selectedTime sel x s ≠ s.lastTs)) →
      t.entIn = s.entIn.tail ∧ t.entDraws = s.entDraws + 1) ∧
    (s.fatal = 1 ∨ (∀ sel x, i ≠ .gen sel x ∧ (i ≠ .genm sel x ∨ selectedTime sel x s = s.lastTs)) →
      t.entIn = s.entIn ∧ t.entDraws = s.entDraws)

/-- 30_encoding.md R58: NEWGEN leaves the generator registers as a reset does, but does not clear FATAL; ULID emits the value
made of its two operands. The line type of the assembler is the model's (log entry 13). -/
def Obligations.PseudoInstructions : Prop :=
  (∀ s : State, s.fatal = 0 → ∃ i t, assemble .newgen = some i ∧ exec i s = .next t ∧
    t.lastTs = State.reset.lastTs ∧ t.lastRnd = State.reset.lastRnd ∧ t.rndValid = State.reset.rndValid) ∧
  (∀ s : State, s.fatal = 1 → ∃ i t, assemble .newgen = some i ∧ exec i s = .next t ∧ t.fatal = 1) ∧
  (∀ (t : Millis) (r : Payload) (s : State), s.fatal = 0 →
    ∃ i q, assemble (.ulid t r) = some i ∧ exec i s = .next { s with response := some q } ∧
      EmitsValue q (t.toNat * 2 ^ 80 + r.toNat))

/-! ## Errors, the fatal state and the prelude -/

/-- 60_exceptions.md R120: the numeric codes of its table. -/
def Obligations.ErrorCodeNumbers : Prop :=
  [Err.ok, .type, .rangeValue, .rangeTs, .valueLen, .valueChar, .valueTs, .overflow, .rngFail, .uninit, .illegal,
    .fatal].map (fun e => (errCode e).toNat) = List.range 12

/-- R120 ("raised by"), R121, U8: the codes each command can report; TYPE and the reserved codes are never produced by any
step. -/
def Obligations.ErrorsOfEachCommand : Prop :=
  (∀ (i : Instr) (s t : State) (r : Response), exec i s = .next t → t.response = some r →
    match mnemonicOf i with
    | .ENC => r.err ∈ [0x0#4, 0x2#4, 0xB#4]
    | .ENCTS => r.err ∈ [0x0#4, 0x3#4, 0xB#4]
    | .DECG => r.err ∈ [0x0#4, 0x6#4, 0xB#4]
    | .DEC => r.err ∈ [0x0#4, 0x4#4, 0x5#4, 0x6#4, 0xB#4]
    | .GEN => r.err ∈ [0x0#4, 0x8#4, 0xB#4]
    | .GENM => r.err ∈ [0x0#4, 0x7#4, 0x8#4, 0x9#4, 0xB#4]
    | .INIT => r.err ∈ [0x0#4, 0xB#4]) ∧
  (∀ (s t : State) (r : Response), step s = .next t → t.response = some r → r.err ≠ 0x1 ∧ r.err.toNat ≤ 0xB)

/-- R122: a step whose response reports an error leaves LAST_TS, LAST_RND and RND_VALID as they were, and FATAL too unless the
error is RNG_FAIL, which sets it; the response's data fields are 0. -/
def Obligations.ErrorsChangeNoState : Prop :=
  ∀ (s t : State) (r : Response), step s = .next t → t.response = some r → r.err ≠ 0 →
    t.lastTs = s.lastTs ∧ t.lastRnd = s.lastRnd ∧ t.rndValid = s.rndValid ∧
    (r.err ≠ 0x8 → t.fatal = s.fatal) ∧ (r.err = 0x8 → t.fatal = 1) ∧ NoData r

/-- R124: while FATAL = 1 every command, legal or not, raises FATAL with INFO 0x00, samples no port and changes no state; only
the reset input clears FATAL, and it does. -/
def Obligations.FatalRefusesEveryCommand : Prop :=
  (∀ (i : Instr) (s : State), s.fatal = 1 →
    ∃ r, exec i s = .next { s with response := some r } ∧ Reports r 0xB 0x00) ∧
  (∀ (s : State) (c : Command) (rest : List PortEvent), s.wasReset = true → s.fatal = 1 →
    s.pending = .command c :: rest →
    ∃ r, step s = .next { s with pending := rest, response := some r } ∧ Reports r 0xB 0x00) ∧
  (∀ s t : State, step s = .next t → s.fatal = 1 → t.fatal = 0 → ∃ rest, s.pending = .reset :: rest) ∧
  (∀ (s : State) (rest : List PortEvent), s.pending = .reset :: rest → ∃ t, step s = .next t ∧ t.fatal = 0)

/-- R55: each legal word decodes to its mnemonic, and every other word raises ILLEGAL with INFO = CMD, changing no state and
sampling no port. -/
def Obligations.IllegalWordsRaise : Prop :=
  (∀ c : Command,
    (c.cmd = 0x01 → ∃ i, decode c = .ok i ∧ mnemonicOf i = .ENC) ∧
    (c.cmd = 0x02 → ∃ i, decode c = .ok i ∧ mnemonicOf i = .ENCTS) ∧
    (c.cmd = 0x03 → ∃ i, decode c = .ok i ∧ mnemonicOf i = .DECG) ∧
    (c.cmd = 0x04 → ∃ i, decode c = .ok i ∧ mnemonicOf i = .DEC) ∧
    (c.cmd = 0x05 ∨ c.cmd = 0x15 → ∃ i, decode c = .ok i ∧ mnemonicOf i = .GEN) ∧
    (c.cmd = 0x06 ∨ c.cmd = 0x16 → ∃ i, decode c = .ok i ∧ mnemonicOf i = .GENM) ∧
    (c.cmd = 0x07 → ∃ i, decode c = .ok i ∧ mnemonicOf i = .INIT)) ∧
  (∀ (s : State) (c : Command) (rest : List PortEvent), s.wasReset = true → s.fatal = 0 →
    s.pending = .command c :: rest → c.cmd ∉ legalWords →
    ∃ r, step s = .next { s with pending := rest, response := some r } ∧ Reports r 0xA c.cmd)

/-- R155 (the spec's own inference): after RNG_FAIL every command is refused; a reset makes the block usable again, and the next
GENM is a new millisecond unless its time is 0, when it raises UNINIT (R103). -/
def Obligations.RngFailNeedsReset : Prop :=
  ∀ (s t : State) (r : Response), step s = .next t → t.response = some r → r.err = 0x8 →
    (∀ i : Instr, ∃ q, exec i t = .next { t with response := some q } ∧ Reports q 0xB 0x00) ∧
    ∃ u, step { t with pending := [.reset] } = .next u ∧
      ∀ (sel : BitVec 1) (seed : Millis),
        (selectedTime sel seed u ≠ 0 → (entSample u).ok = 1 →
          ∃ v q, exec (.genm sel seed) u = .next v ∧ v.response = some q ∧
            EmitsValue q ((selectedTime sel seed u).toNat * 2 ^ 80 + (entSample u).ent.toNat)) ∧
        (selectedTime sel seed u = 0 →
          ∃ v q, exec (.genm sel seed) u = .next v ∧ v.response = some q ∧ Reports q 0x9 0x00)

/-! ## The response -/

/-- 10_state.md R30 and R31, for the response of every step from every state: an error carries no data; NSYM is 0, 10 or 26;
entries at or past NSYM are 0 and the others have CHR[i] = SYM[GRP[i]]; INFO is 0 when ERR is OK; VAL is {TS, RND} but for the
10 symbols of ENCTS, where RND and VAL are 0. -/
def Obligations.ResponsesAreWellFormed : Prop :=
  ∀ (s t : State) (r : Response), step s = .next t → t.response = some r →
    (r.err ≠ 0 → NoData r) ∧ (r.err = 0 → r.info = 0) ∧ (r.nsym = 0 ∨ r.nsym = 10 ∨ r.nsym = 26) ∧
    (∀ i : Fin 26, r.nsym.toNat ≤ i.val → r.grp[i] = 0 ∧ r.chr[i] = 0) ∧
    (∀ i : Fin 26, i.val < r.nsym.toNat → r.chr[i] = sym r.grp[i]) ∧
    (r.nsym ≠ 10 → r.val.toNat = r.ts.toNat * 2 ^ 80 + r.rnd.toNat) ∧ (r.nsym = 10 → r.rnd = 0 ∧ r.val = 0)

/-- R31: "no command reads a previous response": what a step does is the same whatever stands on the response port. -/
def Obligations.PreviousResponseIsUnread : Prop :=
  ∀ (s : State) (q : Option Response), step { s with response := q } = step s

/-! ## Who reads and writes what -/

/-- R20, R34: GEN, ENC, ENCTS, DECG and DEC neither read nor write the generator registers. -/
def Obligations.GeneratorRegistersUntouched : Prop :=
  ∀ (i : Instr) (s : State) (a : Millis) (b : Option Payload) (c : BitVec 1),
    mnemonicOf i ≠ .GENM → mnemonicOf i ≠ .INIT →
    exec i { s with lastTs := a, lastRnd := b, rndValid := c } =
      mapNext (fun t => { t with lastTs := a, lastRnd := b, rndValid := c }) (exec i s)

/-- 20_memory.md R47: ENC, ENCTS, DECG and DEC are free of side effects: nothing but the response changes, and repeating one
gives the same response. -/
def Obligations.CodecHasNoSideEffect : Prop :=
  ∀ (i : Instr) (s t : State),
    mnemonicOf i = .ENC ∨ mnemonicOf i = .ENCTS ∨ mnemonicOf i = .DECG ∨ mnemonicOf i = .DEC →
    exec i s = .next t →
    SameRegisters s t ∧ NoSample s t ∧ t.cfg = s.cfg ∧ t.wasReset = s.wasReset ∧ t.pending = s.pending ∧
    exec i t = .next t

/-- The frame of every command (10_state.md section 5, "written by"): LAST_TS, LAST_RND and RND_VALID change only by GENM and
INIT, FATAL only by GEN and GENM and only to 1; the parameter, the command port and the reset mark
(log entry 10) never. -/
def Obligations.RegisterWriters : Prop :=
  ∀ (i : Instr) (s t : State), exec i s = .next t →
    (t.lastTs ≠ s.lastTs → mnemonicOf i = .GENM ∨ mnemonicOf i = .INIT) ∧
    (t.lastRnd ≠ s.lastRnd → mnemonicOf i = .GENM ∨ mnemonicOf i = .INIT) ∧
    (t.rndValid ≠ s.rndValid → mnemonicOf i = .GENM ∨ mnemonicOf i = .INIT) ∧
    (t.fatal ≠ s.fatal → (mnemonicOf i = .GEN ∨ mnemonicOf i = .GENM) ∧ t.fatal = 1) ∧
    t.cfg = s.cfg ∧ t.wasReset = s.wasReset ∧ t.pending = s.pending

/-- 00_scope.md R7, R25: CASE_FOLD is fixed (no step changes it) and matters to DEC alone. That it travels in State is the
model's choice (log entry 4). -/
def Obligations.CaseFoldMattersToDecOnly : Prop :=
  (∀ s t : State, step s = .next t → t.cfg = s.cfg) ∧
  (∀ (i : Instr) (s : State) (cfg : Config), mnemonicOf i ≠ .DEC →
    exec i { s with cfg := cfg } = mapNext (fun t => { t with cfg := cfg }) (exec i s))

/-! ## Invariant -/

/-- R21, R22: RND_VALID says whether LAST_RND holds a value; every step from every state where it does keeps it so. -/
def Obligations.TagAgreementKept : Prop :=
  ∀ s t : State, TagAgrees s → step s = .next t → TagAgrees t

/-- The invariant holds in the reset state. -/
def Obligations.TagAgreesAtReset : Prop := TagAgrees State.reset

/-! ## Reset, the ports and the step -/

/-- 00_scope.md R6: the constants. -/
def Obligations.ConstantsOfTheBlock : Prop :=
  maxEpochTime = 2 ^ 48 - 1 ∧ maxRandomness = 2 ^ 80 - 1 ∧ ulidBound = 2 ^ 128

/-- 70_reset_and_hazards.md R140: the values of its table in the reset state. -/
def Obligations.ResetStateValues : Prop :=
  State.reset.lastTs = 0 ∧ State.reset.lastRnd = none ∧ State.reset.rndValid = 0 ∧ State.reset.fatal = 0 ∧
  State.reset.response = none

/-- R140: asserting the reset input sets every state register to its reset value from any state, fatal or never reset, samples
no port, gives no response and leaves CASE_FOLD alone. -/
def Obligations.ResetInputResets : Prop :=
  ∀ (s : State) (rest : List PortEvent), s.pending = .reset :: rest →
    ∃ t, step s = .next t ∧ t.lastTs = 0 ∧ t.lastRnd = none ∧ t.rndValid = 0 ∧ t.fatal = 0 ∧
      NoSample s t ∧ t.response = none ∧ t.cfg = s.cfg

/-- R141: before the first reset a command has no step; a reset ends that, and the reset state of R140 is past it. The mark of
a reset is the model's own field (log entry 10). -/
def Obligations.StuckBeforeReset : Prop :=
  (∀ (s : State) (c : Command) (rest : List PortEvent), s.wasReset = false → s.pending = .command c :: rest →
    step s = .fault .notReset) ∧
  (∀ (s : State) (rest : List PortEvent), s.pending = .reset :: rest → ∃ t, step s = .next t ∧ t.wasReset = true) ∧
  State.reset.wasReset = true

/-- A step runs the decoded instruction: when the command in front decodes to `i`, the step is exactly `exec i` on the state
with that command taken from the port (R12, R29). -/
def Obligations.StepRunsDecoded : Prop :=
  ∀ (s : State) (c : Command) (rest : List PortEvent) (i : Instr), s.wasReset = true →
    s.pending = .command c :: rest → decode c = .ok i → step s = exec i { s with pending := rest }

/-- The command of an opcode-table word, presented first, is what the next step runs (the model's convention, log entry 8). -/
def Obligations.PresentedWordRuns : Prop :=
  ∀ (s : State) (w : Nat) (i : Instr), decodeTableWord 8 w = some i →
    step (s.withFetchWord 8 w) = exec i { s with wasReset := true }

/-- R12, R29, R30: the step is total: every command word with every operand value yields exactly one response. -/
def Obligations.EveryCommandResponds : Prop :=
  ∀ (s : State) (c : Command) (rest : List PortEvent), s.wasReset = true → s.pending = .command c :: rest →
    ∃ t r, step s = .next t ∧ t.response = some r

/-- 20_memory.md R48: events are performed one at a time in the order of the port: a step takes exactly the first, and what it
does depends on none behind it. The model's choice: the list of events (log entry 2), and that those behind a reset stay held (log
entry 9). -/
def Obligations.AcceptanceOrder : Prop :=
  (∀ s t : State, step s = .next t → t.pending = s.pending.tail) ∧
  (∀ (s : State) (e : PortEvent) (rest : List PortEvent),
    step { s with pending := e :: rest } =
      mapNext (fun t => { t with pending := rest }) (step { s with pending := [e] }))

/-- With nothing presented the block waits and holds its registers (R41, R133); that the response port is then empty is the
model's choice (log entry 1). -/
def Obligations.IdleHoldsState : Prop :=
  ∀ s : State, s.pending = [] → step s = .next { s with response := none }

/-- The step lemma under the monotonicity law (42_generator.md R101, R104; 60_exceptions.md R122): a step whose event is no reset
and no INIT keeps the generator registers at the last emitted pair, that of the GENM this step performed with success, or else the
one they held before; and a successful GENM brings them there from every state. -/
def Obligations.LastEmittedPairKept : Prop :=
  (∀ (s t : State) (last : Response), HoldsEmitted last s → (∀ e, s.pending.head? = some e → KeepsGenerator e) →
    step s = .next t → HoldsEmitted ((genmOutput s t).headD last) t) ∧
  (∀ (s t : State) (r : Response), step s = .next t → r ∈ genmOutput s t → HoldsEmitted r t)
end

