-- ==== Sys2Proof/Laws/Fields.lean ====
section
/-!
SUPPORT. Multi-element fields as numbers: a packed field is the positional value of its elements, and slicing is division and
remainder (20_memory.md R42, R44).
-/

namespace Sys2Proof

/-- Cutting `k` bits at position `p` is division and remainder. -/
theorem toNat_slice (w : BitVec n) (p k : Nat) : (w.extractLsb' p k).toNat = w.toNat / 2 ^ p % 2 ^ k := by
  simp [BitVec.extractLsb'_toNat, Nat.shiftRight_eq_div_pow]

/-- One more element at the low end of a field: the value moves up by the element's width. -/
theorem toNat_appendLow (acc : BitVec n) (x : BitVec w) (h : acc.toNat * 2 ^ w + x.toNat < 2 ^ n) :
    (acc <<< w ||| x.setWidth n).toNat = acc.toNat * 2 ^ w + x.toNat := by
  have hx : x.toNat < 2 ^ n := lt_of_le_of_lt (Nat.le_add_left _ _) h
  have ha : acc.toNat * 2 ^ w < 2 ^ n := lt_of_le_of_lt (Nat.le_add_right _ _) h
  rw [BitVec.toNat_or, BitVec.toNat_shiftLeft, BitVec.toNat_setWidth, Nat.mod_eq_of_lt hx, Nat.shiftLeft_eq,
    Nat.mod_eq_of_lt ha, ← Nat.shiftLeft_eq, Nat.shiftLeft_add_eq_or_of_lt x.isLt]

/-- The positional value of a list of digits of `w` bits, read after the value `acc`. -/
def digitsFrom (w acc : Nat) (xs : List (BitVec w)) : Nat := xs.foldl (fun a x => a * 2 ^ w + x.toNat) acc

theorem digitsFrom_nil (w acc : Nat) : digitsFrom w acc [] = acc := rfl

theorem digitsFrom_cons (w acc : Nat) (x : BitVec w) (xs : List (BitVec w)) :
    digitsFrom w acc (x :: xs) = digitsFrom w (acc * 2 ^ w + x.toNat) xs := rfl

theorem digitsFrom_append (w acc : Nat) (xs ys : List (BitVec w)) :
    digitsFrom w acc (xs ++ ys) = digitsFrom w (digitsFrom w acc xs) ys := by
  simp [digitsFrom, List.foldl_append]

/-- What stands before the digits moves up by their number. -/
theorem digitsFrom_eq (w acc : Nat) (xs : List (BitVec w)) :
    digitsFrom w acc xs = acc * 2 ^ (w * xs.length) + digitsFrom w 0 xs := by
  induction xs generalizing acc with
  | nil => simp [digitsFrom_nil]
  | cons x xs ih =>
    rw [digitsFrom_cons, digitsFrom_cons, ih, ih (0 * 2 ^ w + x.toNat), List.length_cons, Nat.mul_add, Nat.mul_one,
      Nat.pow_add]
    ring

/-- Digits give less than their number of places can hold. -/
theorem digitsFrom_lt (w : Nat) (xs : List (BitVec w)) : digitsFrom w 0 xs < 2 ^ (w * xs.length) := by
  induction xs with
  | nil => simp [digitsFrom_nil]
  | cons x xs ih =>
    rw [digitsFrom_cons, digitsFrom_eq, List.length_cons, Nat.mul_add, Nat.mul_one, Nat.pow_add]
    have := x.isLt
    nlinarith [Nat.zero_le (digitsFrom w 0 xs), Nat.two_pow_pos (w * xs.length)]

/-- A packed field is the positional value of its elements. -/
theorem toNat_packFields (w n : Nat) (xs : List (BitVec w)) (h : w * xs.length ≤ n) :
    (packFields w n xs).toNat = digitsFrom w 0 xs := by
  suffices key : ∀ (ys : List (BitVec w)) (acc : BitVec n), digitsFrom w acc.toNat ys < 2 ^ n →
      (ys.foldl (fun (a : BitVec n) (x : BitVec w) => a <<< w ||| x.setWidth n) acc).toNat = digitsFrom w acc.toNat ys by
    have := key xs 0 (by simpa using lt_of_lt_of_le (digitsFrom_lt w xs) (Nat.pow_le_pow_right (by decide) h))
    simpa [packFields] using this
  intro ys
  induction ys with
  | nil => intro acc _; rfl
  | cons y ys ih =>
    intro acc hlt
    rw [digitsFrom_cons] at hlt
    have hstep : acc.toNat * 2 ^ w + y.toNat < 2 ^ n := by
      rw [digitsFrom_eq] at hlt
      have : 0 < 2 ^ (w * ys.length) := Nat.two_pow_pos _
      exact lt_of_le_of_lt ((Nat.le_mul_of_pos_right _ this).trans (Nat.le_add_right _ _)) hlt
    have hnat := toNat_appendLow acc y hstep
    rw [List.foldl_cons, digitsFrom_cons, ih _ (by rwa [hnat]), hnat]

/-- The group vector as a number. -/
theorem toNat_packGroups (g : Vector Group 26) : (packGroups g).toNat = Safety.groupsValue g.toList :=
  toNat_packFields 5 130 g.toList (by simp)

end Sys2Proof
end

