-- ==== Sys2Proof/Laws/Operands.lean ====
section
/-!
SUPPORT. What the pure operations of Machine/Operands.lean give: the alphabet and its inverse, the slices, the responses.
-/

namespace Sys2Proof.Machine

open Sys2Proof.Safety

/-! ### Alphabet -/

/-- The ROM's 32 codes are different. -/
theorem sym_injective : ∀ k1 k2 : Group, sym k1 = sym k2 → k1 = k2 := by decide +kernel

/-- No lower-case code is a code of the ROM. -/
theorem lowerCode_ne_sym : ∀ k1 k2 : Group, lowerCode k1 ≠ some (sym k2) := by decide +kernel

/-- The 22 lower-case codes are different. -/
theorem lowerCode_injective : ∀ k1 k2 : Group, lowerCode k1 = lowerCode k2 → lowerCode k1 = none ∨ k1 = k2 := by
  decide +kernel

/-- A code is accepted for at most one index, whatever CASE_FOLD is. -/
theorem accepts_unique (caseFold : Bool) (c : Code) (k1 k2 : Group) (h1 : accepts caseFold c k1 = true)
    (h2 : accepts caseFold c k2 = true) : k1 = k2 := by
  simp only [accepts, Bool.or_eq_true, Bool.and_eq_true, beq_iff_eq] at h1 h2
  rcases h1 with h1 | ⟨_, h1⟩ <;> rcases h2 with h2 | ⟨_, h2⟩
  · exact sym_injective _ _ (h1.trans h2.symm)
  · exact absurd (h1 ▸ h2) (lowerCode_ne_sym k2 k1)
  · exact absurd (h2 ▸ h1) (lowerCode_ne_sym k1 k2)
  · rcases lowerCode_injective _ _ (h1.trans h2.symm) with h | h
    · simp [h1] at h
    · exact h

/-- The inverse map is the accepted index (10_state.md R25). -/
theorem unsym_eq_some (caseFold : Bool) (c : Code) (k : Group) : unsym caseFold c = some k ↔ accepts caseFold c k = true := by
  have all : ∀ k : Group, k ∈ (List.range 32).map (BitVec.ofNat 5) := by decide
  constructor
  · intro h
    exact List.find?_some h
  · intro h
    have hsome : ((List.range 32).map (BitVec.ofNat 5)).find? (accepts caseFold c) ≠ none := by
      rw [Ne, List.find?_eq_none]
      intro hn
      exact hn k (all k) h
    obtain ⟨k', hk'⟩ := Option.ne_none_iff_exists'.mp hsome
    rw [unsym, hk', accepts_unique caseFold c k k' h (List.find?_some hk')]

/-- The inverse map undoes the ROM. -/
@[simp] theorem unsym_sym (caseFold : Bool) (k : Group) : unsym caseFold (sym k) = some k := by
  rw [unsym_eq_some]; simp [accepts]

/-- The search for a bad character finds none exactly when every character is in the alphabet. -/
theorem firstBadChar_eq_none (caseFold : Bool) (chars : Vector Code 26) :
    firstBadChar caseFold chars = none ↔ ∀ i : Fin 26, unsym caseFold chars[i] ≠ none := by
  simp [firstBadChar, List.find?_eq_none, List.mem_finRange]

/-- A bad character it finds is not in the alphabet. -/
theorem firstBadChar_bad (caseFold : Bool) (chars : Vector Code 26) (i : Fin 26) (h : firstBadChar caseFold chars = some i) :
    unsym caseFold chars[i] = none := by
  have := List.find?_some h
  simpa using this

/-- The groups of an accepted string are its indices. -/
theorem charGroups_eq (caseFold : Bool) (chars : Vector Code 26) (g : Vector Group 26)
    (h : ∀ i : Fin 26, unsym caseFold chars[i] = some g[i]) : charGroups caseFold chars = g := by
  ext i hi
  have := h ⟨i, hi⟩
  simp only [Fin.getElem_fin] at this
  simp [charGroups, this]

/-! ### Responses -/

/-- The response of an error carries its status and nothing else. -/
theorem blankResponse_reports (e : Err) (info : BitVec 8) : Reports (blankResponse e info) (errCode e) info where
  err := rfl
  info := rfl
  data := ⟨⟨rfl, by simp [blankResponse], by simp [blankResponse]⟩, rfl, rfl, rfl⟩

/-- The emission of a value carries its digits, its characters and its fields (40_encode.md R60). -/
theorem emission_emits (x : Ulid) : EmitsValue (emission x) x.toNat where
  err := rfl
  info := rfl
  nsym := rfl
  grp i := by
    simp only [emission, Fin.getElem_fin, Vector.getElem_ofFn, valueGroup, toNat_slice]
    rw [BitVec.toNat_setWidth_of_le (by decide)]; norm_num
  chr i := by simp [emission]
  ts := by
    simp only [emission, toNat_slice]
    have := x.isLt
    omega
  rnd := by simp [emission]
  val := rfl

/-- The emission of a timestamp (R61). -/
theorem timeEmission_emits (t : Millis) : EmitsTime (timeEmission t) t.toNat where
  err := rfl
  info := rfl
  nsym := rfl
  grp i hi := by
    simp only [timeEmission, Fin.getElem_fin, Vector.getElem_ofFn, hi, if_true, timeGroup, toNat_slice]
    rw [BitVec.toNat_setWidth_of_le (by decide)]; norm_num
  chr i hi := by simp [timeEmission, hi]
  grpRest i hi := by simp [timeEmission, Nat.not_lt.mpr hi]
  chrRest i hi := by simp [timeEmission, Nat.not_lt.mpr hi]
  ts := rfl
  rnd := rfl
  val := rfl

/-- The emission of a timestamp and a payload is that of the value they make (20_memory.md R43). -/
theorem emission_append_emits (t : Millis) (r : Payload) :
    EmitsValue (emission (t ++ r)) (t.toNat * 2 ^ 80 + r.toNat) := by
  have h : (t ++ r : Ulid).toNat = t.toNat * 2 ^ 80 + r.toNat := by
    rw [BitVec.toNat_append, ← Nat.shiftLeft_add_eq_or_of_lt r.isLt, Nat.shiftLeft_eq]
  exact h ▸ emission_emits (t ++ r)

/-- The response of a decoded value whose timestamp is in range (41_decode.md R80). -/
theorem decoded_decodes (w : BitVec 130) (h : w.toNat < 2 ^ 128) :
    DecodesTo (decoded w) (w.toNat / 2 ^ 80) (w.toNat % 2 ^ 80) where
  err := rfl
  info := rfl
  symbols := ⟨rfl, by simp [decoded, blankResponse], by simp [decoded, blankResponse]⟩
  ts := by simp only [decoded, toNat_slice]; omega
  rnd := by simp [decoded]
  val := by simp only [decoded, toNat_slice]; omega

end Sys2Proof.Machine
end

