-- ==== Sys2Proof/Laws/State.lean ====
section
/-!
SUPPORT. One lemma per field per update of `State`: what each named operation does to each field, true by `rfl`.
-/

namespace Sys2Proof.Machine

/-! ### respond -/

@[simp] theorem respond_lastTs (r : Response) (s : State) : (respond r s).lastTs = s.lastTs := rfl
@[simp] theorem respond_lastRnd (r : Response) (s : State) : (respond r s).lastRnd = s.lastRnd := rfl
@[simp] theorem respond_rndValid (r : Response) (s : State) : (respond r s).rndValid = s.rndValid := rfl
@[simp] theorem respond_fatal (r : Response) (s : State) : (respond r s).fatal = s.fatal := rfl
@[simp] theorem respond_cfg (r : Response) (s : State) : (respond r s).cfg = s.cfg := rfl
@[simp] theorem respond_wasReset (r : Response) (s : State) : (respond r s).wasReset = s.wasReset := rfl
@[simp] theorem respond_pending (r : Response) (s : State) : (respond r s).pending = s.pending := rfl
@[simp] theorem respond_clkIn (r : Response) (s : State) : (respond r s).clkIn = s.clkIn := rfl
@[simp] theorem respond_entIn (r : Response) (s : State) : (respond r s).entIn = s.entIn := rfl
@[simp] theorem respond_clkDraws (r : Response) (s : State) : (respond r s).clkDraws = s.clkDraws := rfl
@[simp] theorem respond_entDraws (r : Response) (s : State) : (respond r s).entDraws = s.entDraws := rfl
@[simp] theorem respond_response (r : Response) (s : State) : (respond r s).response = some r := rfl

/-! ### raise -/

@[simp] theorem raise_lastTs (e : Err) (info : BitVec 8) (s : State) : (raise e info s).lastTs = s.lastTs := rfl
@[simp] theorem raise_lastRnd (e : Err) (info : BitVec 8) (s : State) : (raise e info s).lastRnd = s.lastRnd := rfl
@[simp] theorem raise_rndValid (e : Err) (info : BitVec 8) (s : State) : (raise e info s).rndValid = s.rndValid := rfl
@[simp] theorem raise_fatal (e : Err) (info : BitVec 8) (s : State) : (raise e info s).fatal = s.fatal := rfl
@[simp] theorem raise_cfg (e : Err) (info : BitVec 8) (s : State) : (raise e info s).cfg = s.cfg := rfl
@[simp] theorem raise_wasReset (e : Err) (info : BitVec 8) (s : State) : (raise e info s).wasReset = s.wasReset := rfl
@[simp] theorem raise_pending (e : Err) (info : BitVec 8) (s : State) : (raise e info s).pending = s.pending := rfl
@[simp] theorem raise_clkIn (e : Err) (info : BitVec 8) (s : State) : (raise e info s).clkIn = s.clkIn := rfl
@[simp] theorem raise_entIn (e : Err) (info : BitVec 8) (s : State) : (raise e info s).entIn = s.entIn := rfl
@[simp] theorem raise_clkDraws (e : Err) (info : BitVec 8) (s : State) : (raise e info s).clkDraws = s.clkDraws := rfl
@[simp] theorem raise_entDraws (e : Err) (info : BitVec 8) (s : State) : (raise e info s).entDraws = s.entDraws := rfl
@[simp] theorem raise_response (e : Err) (info : BitVec 8) (s : State) : (raise e info s).response = some (blankResponse e info) := rfl

/-! ### raiseRngFail -/

@[simp] theorem raiseRngFail_lastTs (s : State) : (raiseRngFail s).lastTs = s.lastTs := rfl
@[simp] theorem raiseRngFail_lastRnd (s : State) : (raiseRngFail s).lastRnd = s.lastRnd := rfl
@[simp] theorem raiseRngFail_rndValid (s : State) : (raiseRngFail s).rndValid = s.rndValid := rfl
@[simp] theorem raiseRngFail_fatal (s : State) : (raiseRngFail s).fatal = 1 := rfl
@[simp] theorem raiseRngFail_cfg (s : State) : (raiseRngFail s).cfg = s.cfg := rfl
@[simp] theorem raiseRngFail_wasReset (s : State) : (raiseRngFail s).wasReset = s.wasReset := rfl
@[simp] theorem raiseRngFail_pending (s : State) : (raiseRngFail s).pending = s.pending := rfl
@[simp] theorem raiseRngFail_clkIn (s : State) : (raiseRngFail s).clkIn = s.clkIn := rfl
@[simp] theorem raiseRngFail_entIn (s : State) : (raiseRngFail s).entIn = s.entIn := rfl
@[simp] theorem raiseRngFail_clkDraws (s : State) : (raiseRngFail s).clkDraws = s.clkDraws := rfl
@[simp] theorem raiseRngFail_entDraws (s : State) : (raiseRngFail s).entDraws = s.entDraws := rfl
@[simp] theorem raiseRngFail_response (s : State) : (raiseRngFail s).response = some (blankResponse .rngFail 0) := rfl

/-! ### takeClk -/

@[simp] theorem takeClk_lastTs (s : State) : (takeClk s).lastTs = s.lastTs := rfl
@[simp] theorem takeClk_lastRnd (s : State) : (takeClk s).lastRnd = s.lastRnd := rfl
@[simp] theorem takeClk_rndValid (s : State) : (takeClk s).rndValid = s.rndValid := rfl
@[simp] theorem takeClk_fatal (s : State) : (takeClk s).fatal = s.fatal := rfl
@[simp] theorem takeClk_cfg (s : State) : (takeClk s).cfg = s.cfg := rfl
@[simp] theorem takeClk_wasReset (s : State) : (takeClk s).wasReset = s.wasReset := rfl
@[simp] theorem takeClk_pending (s : State) : (takeClk s).pending = s.pending := rfl
@[simp] theorem takeClk_clkIn (s : State) : (takeClk s).clkIn = s.clkIn.tail := rfl
@[simp] theorem takeClk_entIn (s : State) : (takeClk s).entIn = s.entIn := rfl
@[simp] theorem takeClk_clkDraws (s : State) : (takeClk s).clkDraws = s.clkDraws + 1 := rfl
@[simp] theorem takeClk_entDraws (s : State) : (takeClk s).entDraws = s.entDraws := rfl
@[simp] theorem takeClk_response (s : State) : (takeClk s).response = s.response := rfl

/-! ### takeEnt -/

@[simp] theorem takeEnt_lastTs (s : State) : (takeEnt s).lastTs = s.lastTs := rfl
@[simp] theorem takeEnt_lastRnd (s : State) : (takeEnt s).lastRnd = s.lastRnd := rfl
@[simp] theorem takeEnt_rndValid (s : State) : (takeEnt s).rndValid = s.rndValid := rfl
@[simp] theorem takeEnt_fatal (s : State) : (takeEnt s).fatal = s.fatal := rfl
@[simp] theorem takeEnt_cfg (s : State) : (takeEnt s).cfg = s.cfg := rfl
@[simp] theorem takeEnt_wasReset (s : State) : (takeEnt s).wasReset = s.wasReset := rfl
@[simp] theorem takeEnt_pending (s : State) : (takeEnt s).pending = s.pending := rfl
@[simp] theorem takeEnt_clkIn (s : State) : (takeEnt s).clkIn = s.clkIn := rfl
@[simp] theorem takeEnt_entIn (s : State) : (takeEnt s).entIn = s.entIn.tail := rfl
@[simp] theorem takeEnt_clkDraws (s : State) : (takeEnt s).clkDraws = s.clkDraws := rfl
@[simp] theorem takeEnt_entDraws (s : State) : (takeEnt s).entDraws = s.entDraws + 1 := rfl
@[simp] theorem takeEnt_response (s : State) : (takeEnt s).response = s.response := rfl

/-! ### writeRnd -/

@[simp] theorem writeRnd_lastTs (r : Payload) (s : State) : (writeRnd r s).lastTs = s.lastTs := rfl
@[simp] theorem writeRnd_lastRnd (r : Payload) (s : State) : (writeRnd r s).lastRnd = some r := rfl
@[simp] theorem writeRnd_rndValid (r : Payload) (s : State) : (writeRnd r s).rndValid = 1 := rfl
@[simp] theorem writeRnd_fatal (r : Payload) (s : State) : (writeRnd r s).fatal = s.fatal := rfl
@[simp] theorem writeRnd_cfg (r : Payload) (s : State) : (writeRnd r s).cfg = s.cfg := rfl
@[simp] theorem writeRnd_wasReset (r : Payload) (s : State) : (writeRnd r s).wasReset = s.wasReset := rfl
@[simp] theorem writeRnd_pending (r : Payload) (s : State) : (writeRnd r s).pending = s.pending := rfl
@[simp] theorem writeRnd_clkIn (r : Payload) (s : State) : (writeRnd r s).clkIn = s.clkIn := rfl
@[simp] theorem writeRnd_entIn (r : Payload) (s : State) : (writeRnd r s).entIn = s.entIn := rfl
@[simp] theorem writeRnd_clkDraws (r : Payload) (s : State) : (writeRnd r s).clkDraws = s.clkDraws := rfl
@[simp] theorem writeRnd_entDraws (r : Payload) (s : State) : (writeRnd r s).entDraws = s.entDraws := rfl
@[simp] theorem writeRnd_response (r : Payload) (s : State) : (writeRnd r s).response = s.response := rfl

/-! ### unsetRnd -/

@[simp] theorem unsetRnd_lastTs (s : State) : (unsetRnd s).lastTs = s.lastTs := rfl
@[simp] theorem unsetRnd_lastRnd (s : State) : (unsetRnd s).lastRnd = none := rfl
@[simp] theorem unsetRnd_rndValid (s : State) : (unsetRnd s).rndValid = 0 := rfl
@[simp] theorem unsetRnd_fatal (s : State) : (unsetRnd s).fatal = s.fatal := rfl
@[simp] theorem unsetRnd_cfg (s : State) : (unsetRnd s).cfg = s.cfg := rfl
@[simp] theorem unsetRnd_wasReset (s : State) : (unsetRnd s).wasReset = s.wasReset := rfl
@[simp] theorem unsetRnd_pending (s : State) : (unsetRnd s).pending = s.pending := rfl
@[simp] theorem unsetRnd_clkIn (s : State) : (unsetRnd s).clkIn = s.clkIn := rfl
@[simp] theorem unsetRnd_entIn (s : State) : (unsetRnd s).entIn = s.entIn := rfl
@[simp] theorem unsetRnd_clkDraws (s : State) : (unsetRnd s).clkDraws = s.clkDraws := rfl
@[simp] theorem unsetRnd_entDraws (s : State) : (unsetRnd s).entDraws = s.entDraws := rfl
@[simp] theorem unsetRnd_response (s : State) : (unsetRnd s).response = s.response := rfl

/-! ### writeTs -/

@[simp] theorem writeTs_lastTs (t : Millis) (s : State) : (writeTs t s).lastTs = t := rfl
@[simp] theorem writeTs_lastRnd (t : Millis) (s : State) : (writeTs t s).lastRnd = s.lastRnd := rfl
@[simp] theorem writeTs_rndValid (t : Millis) (s : State) : (writeTs t s).rndValid = s.rndValid := rfl
@[simp] theorem writeTs_fatal (t : Millis) (s : State) : (writeTs t s).fatal = s.fatal := rfl
@[simp] theorem writeTs_cfg (t : Millis) (s : State) : (writeTs t s).cfg = s.cfg := rfl
@[simp] theorem writeTs_wasReset (t : Millis) (s : State) : (writeTs t s).wasReset = s.wasReset := rfl
@[simp] theorem writeTs_pending (t : Millis) (s : State) : (writeTs t s).pending = s.pending := rfl
@[simp] theorem writeTs_clkIn (t : Millis) (s : State) : (writeTs t s).clkIn = s.clkIn := rfl
@[simp] theorem writeTs_entIn (t : Millis) (s : State) : (writeTs t s).entIn = s.entIn := rfl
@[simp] theorem writeTs_clkDraws (t : Millis) (s : State) : (writeTs t s).clkDraws = s.clkDraws := rfl
@[simp] theorem writeTs_entDraws (t : Millis) (s : State) : (writeTs t s).entDraws = s.entDraws := rfl
@[simp] theorem writeTs_response (t : Millis) (s : State) : (writeTs t s).response = s.response := rfl

/-! ### emit -/

@[simp] theorem emit_lastTs (t : Millis) (r : Payload) (s : State) : (emit t r s).lastTs = s.lastTs := rfl
@[simp] theorem emit_lastRnd (t : Millis) (r : Payload) (s : State) : (emit t r s).lastRnd = s.lastRnd := rfl
@[simp] theorem emit_rndValid (t : Millis) (r : Payload) (s : State) : (emit t r s).rndValid = s.rndValid := rfl
@[simp] theorem emit_fatal (t : Millis) (r : Payload) (s : State) : (emit t r s).fatal = s.fatal := rfl
@[simp] theorem emit_cfg (t : Millis) (r : Payload) (s : State) : (emit t r s).cfg = s.cfg := rfl
@[simp] theorem emit_wasReset (t : Millis) (r : Payload) (s : State) : (emit t r s).wasReset = s.wasReset := rfl
@[simp] theorem emit_pending (t : Millis) (r : Payload) (s : State) : (emit t r s).pending = s.pending := rfl
@[simp] theorem emit_clkIn (t : Millis) (r : Payload) (s : State) : (emit t r s).clkIn = s.clkIn := rfl
@[simp] theorem emit_entIn (t : Millis) (r : Payload) (s : State) : (emit t r s).entIn = s.entIn := rfl
@[simp] theorem emit_clkDraws (t : Millis) (r : Payload) (s : State) : (emit t r s).clkDraws = s.clkDraws := rfl
@[simp] theorem emit_entDraws (t : Millis) (r : Payload) (s : State) : (emit t r s).entDraws = s.entDraws := rfl
@[simp] theorem emit_response (t : Millis) (r : Payload) (s : State) : (emit t r s).response = some (emission (t ++ r)) := rfl

/-! ### resetInput -/

@[simp] theorem resetInput_lastTs (s : State) : (resetInput s).lastTs = 0 := rfl
@[simp] theorem resetInput_lastRnd (s : State) : (resetInput s).lastRnd = none := rfl
@[simp] theorem resetInput_rndValid (s : State) : (resetInput s).rndValid = 0 := rfl
@[simp] theorem resetInput_fatal (s : State) : (resetInput s).fatal = 0 := rfl
@[simp] theorem resetInput_cfg (s : State) : (resetInput s).cfg = s.cfg := rfl
@[simp] theorem resetInput_wasReset (s : State) : (resetInput s).wasReset = true := rfl
@[simp] theorem resetInput_pending (s : State) : (resetInput s).pending = s.pending := rfl
@[simp] theorem resetInput_clkIn (s : State) : (resetInput s).clkIn = s.clkIn := rfl
@[simp] theorem resetInput_entIn (s : State) : (resetInput s).entIn = s.entIn := rfl
@[simp] theorem resetInput_clkDraws (s : State) : (resetInput s).clkDraws = s.clkDraws := rfl
@[simp] theorem resetInput_entDraws (s : State) : (resetInput s).entDraws = s.entDraws := rfl
@[simp] theorem resetInput_response (s : State) : (resetInput s).response = none := rfl

/-! ### waitIdle -/

@[simp] theorem waitIdle_lastTs (s : State) : (waitIdle s).lastTs = s.lastTs := rfl
@[simp] theorem waitIdle_lastRnd (s : State) : (waitIdle s).lastRnd = s.lastRnd := rfl
@[simp] theorem waitIdle_rndValid (s : State) : (waitIdle s).rndValid = s.rndValid := rfl
@[simp] theorem waitIdle_fatal (s : State) : (waitIdle s).fatal = s.fatal := rfl
@[simp] theorem waitIdle_cfg (s : State) : (waitIdle s).cfg = s.cfg := rfl
@[simp] theorem waitIdle_wasReset (s : State) : (waitIdle s).wasReset = s.wasReset := rfl
@[simp] theorem waitIdle_pending (s : State) : (waitIdle s).pending = s.pending := rfl
@[simp] theorem waitIdle_clkIn (s : State) : (waitIdle s).clkIn = s.clkIn := rfl
@[simp] theorem waitIdle_entIn (s : State) : (waitIdle s).entIn = s.entIn := rfl
@[simp] theorem waitIdle_clkDraws (s : State) : (waitIdle s).clkDraws = s.clkDraws := rfl
@[simp] theorem waitIdle_entDraws (s : State) : (waitIdle s).entDraws = s.entDraws := rfl
@[simp] theorem waitIdle_response (s : State) : (waitIdle s).response = none := rfl

/-! ### acceptEvent -/

@[simp] theorem acceptEvent_lastTs (rest : List PortEvent) (s : State) : (acceptEvent rest s).lastTs = s.lastTs := rfl
@[simp] theorem acceptEvent_lastRnd (rest : List PortEvent) (s : State) : (acceptEvent rest s).lastRnd = s.lastRnd := rfl
@[simp] theorem acceptEvent_rndValid (rest : List PortEvent) (s : State) : (acceptEvent rest s).rndValid = s.rndValid := rfl
@[simp] theorem acceptEvent_fatal (rest : List PortEvent) (s : State) : (acceptEvent rest s).fatal = s.fatal := rfl
@[simp] theorem acceptEvent_cfg (rest : List PortEvent) (s : State) : (acceptEvent rest s).cfg = s.cfg := rfl
@[simp] theorem acceptEvent_wasReset (rest : List PortEvent) (s : State) : (acceptEvent rest s).wasReset = s.wasReset := rfl
@[simp] theorem acceptEvent_pending (rest : List PortEvent) (s : State) : (acceptEvent rest s).pending = rest := rfl
@[simp] theorem acceptEvent_clkIn (rest : List PortEvent) (s : State) : (acceptEvent rest s).clkIn = s.clkIn := rfl
@[simp] theorem acceptEvent_entIn (rest : List PortEvent) (s : State) : (acceptEvent rest s).entIn = s.entIn := rfl
@[simp] theorem acceptEvent_clkDraws (rest : List PortEvent) (s : State) : (acceptEvent rest s).clkDraws = s.clkDraws := rfl
@[simp] theorem acceptEvent_entDraws (rest : List PortEvent) (s : State) : (acceptEvent rest s).entDraws = s.entDraws := rfl
@[simp] theorem acceptEvent_response (rest : List PortEvent) (s : State) : (acceptEvent rest s).response = s.response := rfl

/-! ### presentFirst -/

@[simp] theorem presentFirst_lastTs (c : Command) (s : State) : (presentFirst c s).lastTs = s.lastTs := rfl
@[simp] theorem presentFirst_lastRnd (c : Command) (s : State) : (presentFirst c s).lastRnd = s.lastRnd := rfl
@[simp] theorem presentFirst_rndValid (c : Command) (s : State) : (presentFirst c s).rndValid = s.rndValid := rfl
@[simp] theorem presentFirst_fatal (c : Command) (s : State) : (presentFirst c s).fatal = s.fatal := rfl
@[simp] theorem presentFirst_cfg (c : Command) (s : State) : (presentFirst c s).cfg = s.cfg := rfl
@[simp] theorem presentFirst_wasReset (c : Command) (s : State) : (presentFirst c s).wasReset = true := rfl
@[simp] theorem presentFirst_pending (c : Command) (s : State) : (presentFirst c s).pending = .command c :: s.pending := rfl
@[simp] theorem presentFirst_clkIn (c : Command) (s : State) : (presentFirst c s).clkIn = s.clkIn := rfl
@[simp] theorem presentFirst_entIn (c : Command) (s : State) : (presentFirst c s).entIn = s.entIn := rfl
@[simp] theorem presentFirst_clkDraws (c : Command) (s : State) : (presentFirst c s).clkDraws = s.clkDraws := rfl
@[simp] theorem presentFirst_entDraws (c : Command) (s : State) : (presentFirst c s).entDraws = s.entDraws := rfl
@[simp] theorem presentFirst_response (c : Command) (s : State) : (presentFirst c s).response = s.response := rfl

/-! ### Samples of one port leave the other alone -/

@[simp] theorem entSample_takeClk (s : State) : entSample (takeClk s) = entSample s := rfl
@[simp] theorem clkSample_takeEnt (s : State) : clkSample (takeEnt s) = clkSample s := rfl
@[simp] theorem clkSample_acceptEvent (rest : List PortEvent) (s : State) : clkSample (acceptEvent rest s) = clkSample s := rfl
@[simp] theorem entSample_acceptEvent (rest : List PortEvent) (s : State) : entSample (acceptEvent rest s) = entSample s := rfl

/-! ### afterTime: the state after the time of a GEN or GENM is selected -/

@[simp] theorem afterTime_lastTs (sel : BitVec 1) (s : State) : (afterTime sel s).lastTs = s.lastTs := by
  unfold afterTime; split <;> rfl
@[simp] theorem afterTime_lastRnd (sel : BitVec 1) (s : State) : (afterTime sel s).lastRnd = s.lastRnd := by
  unfold afterTime; split <;> rfl
@[simp] theorem afterTime_rndValid (sel : BitVec 1) (s : State) : (afterTime sel s).rndValid = s.rndValid := by
  unfold afterTime; split <;> rfl
@[simp] theorem afterTime_fatal (sel : BitVec 1) (s : State) : (afterTime sel s).fatal = s.fatal := by
  unfold afterTime; split <;> rfl
@[simp] theorem afterTime_cfg (sel : BitVec 1) (s : State) : (afterTime sel s).cfg = s.cfg := by
  unfold afterTime; split <;> rfl
@[simp] theorem afterTime_wasReset (sel : BitVec 1) (s : State) : (afterTime sel s).wasReset = s.wasReset := by
  unfold afterTime; split <;> rfl
@[simp] theorem afterTime_pending (sel : BitVec 1) (s : State) : (afterTime sel s).pending = s.pending := by
  unfold afterTime; split <;> rfl
@[simp] theorem afterTime_clkIn (sel : BitVec 1) (s : State) : (afterTime sel s).clkIn = if sel = 1 then s.clkIn else s.clkIn.tail := by
  unfold afterTime; split <;> rfl
@[simp] theorem afterTime_entIn (sel : BitVec 1) (s : State) : (afterTime sel s).entIn = s.entIn := by
  unfold afterTime; split <;> rfl
@[simp] theorem afterTime_clkDraws (sel : BitVec 1) (s : State) : (afterTime sel s).clkDraws = if sel = 1 then s.clkDraws else s.clkDraws + 1 := by
  unfold afterTime; split <;> rfl
@[simp] theorem afterTime_entDraws (sel : BitVec 1) (s : State) : (afterTime sel s).entDraws = s.entDraws := by
  unfold afterTime; split <;> rfl
@[simp] theorem afterTime_response (sel : BitVec 1) (s : State) : (afterTime sel s).response = s.response := by
  unfold afterTime; split <;> rfl
@[simp] theorem entSample_afterTime (sel : BitVec 1) (s : State) : entSample (afterTime sel s) = entSample s := by
  unfold afterTime; split <;> rfl
@[simp] theorem heldRnd_afterTime (sel : BitVec 1) (s : State) : heldRnd (afterTime sel s) = heldRnd s := by
  unfold afterTime; split <;> rfl

end Sys2Proof.Machine
end

