-- ==== Sys2Proof/Laws/Exec.lean ====
section
/-!
SUPPORT. What each shared operation, each command and a step can do, said once: later proofs cite these lemmas and unfold no
definition of the machine.
-/

namespace Sys2Proof.Machine

/-- A one-bit word is 0 or 1. -/
theorem bit_cases (b : BitVec 1) : b = 0 ∨ b = 1 := by
  revert b; decide

/-! ### The prelude (60_exceptions.md R123) -/

/-- Not fatal: the command's own rule follows. -/
theorem withPrelude_alive (body : State → State) (s : State) (h : s.fatal = 0) : withPrelude body s = body s := by
  simp [withPrelude, h]

/-- Fatal: the command raises FATAL. -/
theorem withPrelude_fatal (body : State → State) (s : State) (h : s.fatal = 1) :
    withPrelude body s = raise .fatal 0 s := by
  simp [withPrelude, h]

/-- The prelude refuses, or passes to the body. -/
theorem withPrelude_cases (body : State → State) (s : State) :
    (s.fatal = 1 ∧ withPrelude body s = raise .fatal 0 s) ∨ (s.fatal = 0 ∧ withPrelude body s = body s) := by
  rcases bit_cases s.fatal with h | h
  · exact .inr ⟨h, withPrelude_alive body s h⟩
  · exact .inl ⟨h, withPrelude_fatal body s h⟩

/-! ### The decoder unit (41_decode.md R80, R81) -/

/-- DECG's body raises VALUE_TS, or responds with the decoded value. -/
theorem decodeGroups_cases (g : Vector Group 26) (s : State) :
    (maxEpochTime < (paddedTime (packGroups g)).toNat ∧ decodeGroups g s = raise .valueTs (leadingInfo g[0]) s) ∨
    ((paddedTime (packGroups g)).toNat ≤ maxEpochTime ∧ decodeGroups g s = respond (decoded (packGroups g)) s) := by
  unfold decodeGroups
  split
  · exact .inl ⟨by assumption, rfl⟩
  · exact .inr ⟨by omega, rfl⟩

/-- DEC's body raises VALUE_LEN, or VALUE_CHAR, or goes on as DECG. -/
theorem decodeString_cases (len : Nat) (chars : Vector Code 26) (s : State) :
    (len ≠ 26 ∧ decodeString len chars s = raise .valueLen (lenInfo len) s) ∨
    (len = 26 ∧ ∃ i, firstBadChar s.cfg.caseFold chars = some i ∧
      decodeString len chars s = raise .valueChar (positionInfo i) s) ∨
    (len = 26 ∧ firstBadChar s.cfg.caseFold chars = none ∧
      decodeString len chars s = decodeGroups (charGroups s.cfg.caseFold chars) s) := by
  unfold decodeString
  split
  · exact .inl ⟨by assumption, rfl⟩
  · have hlen : len = 26 := by omega
    cases h : firstBadChar s.cfg.caseFold chars with
    | some i => exact .inr (.inl ⟨hlen, i, rfl, rfl⟩)
    | none => exact .inr (.inr ⟨hlen, rfl, rfl⟩)

/-! ### The generator unit (42_generator.md R100 to R103) -/

/-- GEN's body takes one entropy sample and raises RNG_FAIL or emits. -/
theorem generatePlain_cases (t : Millis) (s : State) :
    ((entSample s).ok = 0 ∧ generatePlain t s = raiseRngFail (takeEnt s)) ∨
    ((entSample s).ok = 1 ∧ generatePlain t s = emit t (entSample s).ent (takeEnt s)) := by
  rcases bit_cases (entSample s).ok with h | h
  · exact .inl ⟨h, by simp [generatePlain, h]⟩
  · exact .inr ⟨h, by simp [generatePlain, h]⟩

/-- The rows of R103's transition table, with the state each gives. -/
theorem generateMonotonic_cases (t : Millis) (s : State) :
    (t ≠ s.lastTs ∧ (entSample s).ok = 0 ∧ generateMonotonic t s = raiseRngFail (takeEnt s)) ∨
    (t ≠ s.lastTs ∧ (entSample s).ok = 1 ∧
      generateMonotonic t s = emit t (entSample s).ent (writeTs t (writeRnd (entSample s).ent (takeEnt s)))) ∨
    (t = s.lastTs ∧ heldRnd s = none ∧ generateMonotonic t s = raise .uninit 0 s) ∨
    (∃ r, t = s.lastTs ∧ heldRnd s = some r ∧ r.toNat = maxRandomness ∧ generateMonotonic t s = raise .overflow 0 s) ∨
    (∃ r, t = s.lastTs ∧ heldRnd s = some r ∧ r.toNat < maxRandomness ∧
      generateMonotonic t s = emit t (r + 1) (writeRnd (r + 1) s)) := by
  by_cases ht : t = s.lastTs
  · refine .inr (.inr ?_)
    cases hr : heldRnd s with
    | none => exact .inl ⟨ht, rfl, by simp [generateMonotonic, sameMillisecond, ht, hr]⟩
    | some r =>
      by_cases hm : r.toNat = maxRandomness
      · exact .inr (.inl ⟨r, ht, rfl, hm, by simp [generateMonotonic, sameMillisecond, ht, hr, hm]⟩)
      · have hlt : r.toNat < maxRandomness := by have := r.isLt; unfold maxRandomness at *; omega
        exact .inr (.inr ⟨r, ht, rfl, hlt, by simp [generateMonotonic, sameMillisecond, ht, hr, hm]⟩)
  · rcases bit_cases (entSample s).ok with h | h
    · exact .inl ⟨ht, h, by simp [generateMonotonic, newMillisecond, ht, h]⟩
    · exact .inr (.inl ⟨ht, h, by simp [generateMonotonic, newMillisecond, ht, h]⟩)

/-- The value LAST_RND holds is read through its tag. -/
theorem heldRnd_eq_some (s : State) (r : Payload) : heldRnd s = some r ↔ s.rndValid = 1 ∧ s.lastRnd = some r := by
  unfold heldRnd
  split
  · simp [*]
  · rename_i h
    exact ⟨fun h' => (nomatch h'), fun h' => absurd h'.1 h⟩

/-- The increment of a payload below the maximum does not wrap (R105). -/
theorem toNat_increment (r : Payload) (h : r.toNat < maxRandomness) : (r + 1).toNat = r.toNat + 1 := by
  unfold maxRandomness at h
  rw [BitVec.toNat_add]
  have : (1 : Payload).toNat = 1 := rfl
  omega

/-! ### Commands -/

/-- What a command does to the state, apart from the prelude: the body of its rule. -/
def body : Instr → State → State
  | .enc v, s =>
    if v < 0 ∨ v ≥ ulidBound then raise .rangeValue 0 s else respond (emission (BitVec.ofNat 128 v.toNat)) s
  | .encts t, s =>
    if t < 0 ∨ t > maxEpochTime then raise .rangeTs 0 s else respond (timeEmission (BitVec.ofNat 48 t.toNat)) s
  | .decg groups, s => decodeGroups groups s
  | .dec len chars, s => decodeString len chars s
  | .gen sel tseed, s => generatePlain (selectedTime sel tseed s) (afterTime sel s)
  | .genm sel tseed, s => generateMonotonic (selectedTime sel tseed s) (afterTime sel s)
  | .init its irv irnd, s => respond (blankResponse .ok 0) (loadGenerator its irv irnd s)

/-- Every command answers a next state: its body behind the prelude (R12, R123). -/
theorem exec_eq (i : Instr) (s : State) : exec i s = .next (withPrelude (body i) s) := by
  cases i <;> rfl

/-- A command that is not refused by the prelude. -/
theorem exec_alive (i : Instr) (s : State) (h : s.fatal = 0) : exec i s = .next (body i s) := by
  rw [exec_eq, withPrelude_alive _ _ h]

/-- A command that is. -/
theorem exec_fatal (i : Instr) (s : State) (h : s.fatal = 1) : exec i s = .next (raise .fatal 0 s) := by
  rw [exec_eq, withPrelude_fatal _ _ h]

/-- Everything a command can answer. -/
theorem exec_cases (i : Instr) (s t : State) (h : exec i s = .next t) :
    (s.fatal = 1 ∧ t = raise .fatal 0 s) ∨ (s.fatal = 0 ∧ t = body i s) := by
  rw [exec_eq] at h
  cases h
  exact withPrelude_cases (body i) s

/-- A legal word decodes to the operands of its opcode; another is rejected with itself (30_encoding.md R55). -/
theorem decode_cases (c : Command) :
    (∃ m, opcodeOf c.cmd = some m ∧ decode c = .ok (operandsOf m c)) ∨
    (opcodeOf c.cmd = none ∧ decode c = .error (.illegal c.cmd)) := by
  unfold decode
  cases h : opcodeOf c.cmd with
  | some m => exact .inl ⟨m, rfl, rfl⟩
  | none => exact .inr ⟨rfl, rfl⟩

/-- Everything a step can answer as a next state. -/
theorem step_cases (s t : State) (h : step s = .next t) :
    (s.pending = [] ∧ t = waitIdle s) ∨
    (∃ rest, s.pending = .reset :: rest ∧ t = resetInput (acceptEvent rest s)) ∨
    (∃ c rest i, s.pending = .command c :: rest ∧ s.wasReset = true ∧ decode c = .ok i ∧
      exec i (acceptEvent rest s) = .next t) ∨
    (∃ c rest, s.pending = .command c :: rest ∧ s.wasReset = true ∧ decode c = .error (.illegal c.cmd) ∧
      t = refuseIllegal c.cmd (acceptEvent rest s)) := by
  unfold step at h
  split at h
  · exact .inl ⟨by assumption, by cases h; rfl⟩
  · exact .inr (.inl ⟨_, by assumption, by cases h; rfl⟩)
  · rename_i c rest hp
    split at h
    · rename_i hw
      rcases decode_cases c with ⟨m, _, hd⟩ | ⟨_, hd⟩
      · rw [hd] at h
        exact .inr (.inr (.inl ⟨c, rest, _, hp, hw, hd, h⟩))
      · rw [hd] at h
        exact .inr (.inr (.inr ⟨c, rest, hp, hw, hd, by cases h; rfl⟩))
    · cases h

end Sys2Proof.Machine
end

