-- ==== Sys2Proof/Laws/PerInstr.lean ====
section
/-!
SUPPORT. Statements made per instruction of the syntax. Family `Opcode`: the word an instruction is presented with is one the
opcode table gives its row (30_encoding.md R54).
-/

namespace Sys2Proof.Laws.Opcode

/-- The command word of `i` matches its own row of the opcode table, and the opcode map reads that row from it. -/
def Statement (i : Instr) : Prop :=
  (encode i).cmd &&& tableMask (mnemonicOf i) = tableMatch (mnemonicOf i) ∧
  opcodeOf (encode i).cmd = some (mnemonicOf i)

theorem enc (v : Int) : Statement (.enc v) := by
  unfold Statement; simp only [encode, mnemonicOf]; decide

theorem encts (t : Int) : Statement (.encts t) := by
  unfold Statement; simp only [encode, mnemonicOf]; decide

theorem decg (groups : Vector Group 26) : Statement (.decg groups) := by
  unfold Statement; simp only [encode, mnemonicOf]; decide

theorem dec (len : Nat) (chars : Vector Code 26) : Statement (.dec len chars) := by
  unfold Statement; simp only [encode, mnemonicOf]; decide

theorem gen (sel : BitVec 1) (tseed : Millis) : Statement (.gen sel tseed) := by
  revert sel; unfold Statement; simp only [encode, mnemonicOf]; decide

theorem genm (sel : BitVec 1) (tseed : Millis) : Statement (.genm sel tseed) := by
  revert sel; unfold Statement; simp only [encode, mnemonicOf]; decide

theorem init (its : Millis) (irv : BitVec 1) (irnd : Payload) : Statement (.init its irv irnd) := by
  unfold Statement; simp only [encode, mnemonicOf]; decide

end Sys2Proof.Laws.Opcode
end

