-- ==== Sys2Proof/Tests/Slice0.lean ====
section
/-!
SUPPORT. Tests of the model against values written out from spec/ (95_test_vectors.md and the encodings of 30_encoding.md), the
smoke test of WellFormed, and for every statement with hypotheses a witness that they can be met together.
-/

namespace Sys2Proof.Tests

open Sys2Proof.Machine Sys2Proof.Safety

/-! ### Helpers -/

/-- The next state of an answer, if it is one. -/
def nextOf : Host.Outcome State Fault Refusal → Option State
  | .next s => some s
  | .fault _ => none
  | .refused _ => none

/-- The response of an answer's next state. -/
def responseOf (o : Host.Outcome State Fault Refusal) : Option Response := (nextOf o).bind State.response

/-- What a response says in short: ERR, INFO, the first NSYM characters, TS and RND. -/
def summary (r : Response) : BitVec 4 × BitVec 8 × List Code × Nat × Nat :=
  (r.err, r.info, r.chr.toList.take r.nsym.toNat, r.ts.toNat, r.rnd.toNat)

/-- The summary of what a command answers in a state. -/
def said (i : Instr) (s : State) : Option (BitVec 4 × BitVec 8 × List Code × Nat × Nat) :=
  (responseOf (exec i s)).map summary

/-- The registers after a command: LAST_TS, LAST_RND, RND_VALID, FATAL. -/
def registersAfter (i : Instr) (s : State) : Option (Nat × Option Nat × Nat × Nat) :=
  (nextOf (exec i s)).map fun t => (t.lastTs.toNat, t.lastRnd.map BitVec.toNat, t.rndValid.toNat, t.fatal.toNat)

/-- A state whose generator holds a time and a payload, with samples at both ports. -/
def loaded (t : Millis) (r : Payload) (ents : List Entropy) : State :=
  { State.reset with lastTs := t, lastRnd := some r, rndValid := 1, clkIn := [7], entIn := ents }

/-- The reset state with events at the command port. -/
def holding (es : List PortEvent) : State := { State.reset with pending := es }

/-- The reset state in the fatal condition. -/
def fatalState : State := { State.reset with fatal := 1 }

/-- The characters of a string of 26. -/
def chars (s : String) : Vector Code 26 := firstChars (stringCodes s)

/-! ### Well-formedness: one ill-formed term for each check -/

theorem test_wf_refuses_value_past_range : (Instr.enc (2 ^ 128)).wellFormed = false := by decide

theorem test_wf_refuses_second_negative : (Instr.enc (-2)).wellFormed = false := by decide

theorem test_wf_refuses_time_past_range : (Instr.encts 281474976710656).wellFormed = false := by decide

theorem test_wf_refuses_long_length : (Instr.dec 65536 (chars "")).wellFormed = false := by decide

/-! ### Constants -/

/-- R4 and R24: the ROM column is the alphabet string in ASCII. -/
theorem test_rom_is_the_alphabet : symRom = stringCodes "0123456789ABCDEFGHJKMNPQRSTVWXYZ" := by decide

/-- R24: the lower-case column. -/
theorem test_lower_column : lowerRom = stringCodes "abcdefghjkmnpqrstvwxyz" := by decide

/-! ### Decoding: words written out from 30_encoding.md R50 to R54 and 95_test_vectors.md -/

/-- `RRRSOOOO` = 000 0 0001. -/
theorem test_decode_enc : decode { cmd := 0b00000001, vW := 31 } = .ok (.enc 31) := by decide

/-- P2 step 6: `01 | V_OOR=1 | V_W=0` is an out-of-range value. -/
theorem test_decode_enc_out_of_range : decode { cmd := 0x01, vOor := 1 } = .ok (.enc (-1)) := by decide

/-- R59: `02 | T_OOR=0 | T_W=FFFFFFFFFFFF`. -/
theorem test_decode_encts : decode { cmd := 0b00000010, tW := 0xFFFFFFFFFFFF } = .ok (.encts 281474976710655) := by decide

/-- P2 step 3. -/
theorem test_decode_decg :
    decode { cmd := 0b00000011, grpv := 0x0015F4BFFCD735334ADA78EDC1D4A6F1E } =
      .ok (.decg #v[0, 1, 11, 29, 5, 31, 31, 19, 11, 19, 10, 12, 26, 10, 27, 9, 28, 14, 27, 16, 14, 20, 20, 27, 24, 30]) := by
  decide

/-- P2 step 2. -/
theorem test_decode_dec :
    decode { cmd := 0b00000100, lenW := 0x001A, chrv := 0x30314258355A5A4B424B41435441563957455647454D4D565259 } =
      .ok (.dec 26 (chars "01BX5ZZKBKACTAV9WEVGEMMVRY")) := by
  decide

/-- R54: 0x05 and 0x15 are GEN with S = 0 and S = 1. -/
theorem test_decode_gen :
    decode { cmd := 0b00000101, tseed := 3 } = .ok (.gen 0 3) ∧ decode { cmd := 0b00010101, tseed := 5 } = .ok (.gen 1 5) := by
  decide

/-- R59: `16 | TSEED=015F4BFFCD73`. -/
theorem test_decode_genm :
    decode { cmd := 0b00010110, tseed := 0x015F4BFFCD73 } = .ok (.genm 1 1508808576371) ∧
    decode { cmd := 0b00000110 } = .ok (.genm 0 0) := by
  decide

/-- P1 step 1. -/
theorem test_decode_init :
    decode { cmd := 0b00000111, its := 0x015F4BFFCD73, irv := 1, irnd := 0xFFFFFFFFFFFFFFFFFFFE } =
      .ok (.init 1508808576371 1 1208925819614629174706174) := by
  decide

/-- Table 2.8: words that are illegal. -/
theorem test_decode_illegal :
    [0x00#8, 0x08, 0x0F, 0x11, 0x12, 0x17, 0x21, 0xFF].all (fun w => (opcodeOf w).isNone) = true := by decide

/-- The words of the opcode table, read as the host numbers them. -/
theorem test_table_words : (List.range 256).filter (fun w => (decodeTableWord 8 w).isSome) =
    [0x01, 0x02, 0x03, 0x04, 0x05, 0x06, 0x07, 0x15, 0x16] := by decide +kernel

/-! ### Commands: values from 95_test_vectors.md -/

/-- Table 2.1. -/
theorem test_enc_example : said (.enc 0x015F4BFFCD735334ADA78EDC1D4A6F1E) State.reset =
    some (0x0, 0x00, stringCodes "01BX5ZZKBKACTAV9WEVGEMMVRY", 1508808576371, 392928161897179156999966) := by decide

/-- Table 2.1: 2^128 is out of range. -/
theorem test_enc_range : said (.enc (2 ^ 128)) State.reset = some (0x2, 0x00, [], 0, 0) := by decide

/-- Table 2.2: the last timestamp in range. -/
theorem test_encts_top : said (.encts 281474976710655) State.reset =
    some (0x0, 0x00, stringCodes "7ZZZZZZZZZ", 281474976710655, 0) := by decide

/-- Table 2.2. -/
theorem test_encts_range : said (.encts 281474976710656) State.reset = some (0x3, 0x00, [], 0, 0) := by decide

/-- Table 2.3. -/
theorem test_decg_example : said
    (.decg #v[0, 1, 11, 29, 5, 31, 31, 19, 11, 19, 10, 12, 26, 10, 27, 9, 28, 14, 27, 16, 14, 20, 20, 27, 24, 30])
    State.reset = some (0x0, 0x00, [], 1508808576371, 392928161897179156999966) := by decide

/-- Table 2.3: `ZZ...Z` reports its leading group 0x1F. -/
theorem test_decg_range : said (.decg (charGroups false (chars "ZZZZZZZZZZZZZZZZZZZZZZZZZZ"))) State.reset =
    some (0x6, 0x1F, [], 0, 0) := by decide +kernel

/-- Table 2.4: the lower-case string with CASE_FOLD true. -/
theorem test_dec_folds : said (.dec 26 (chars "01bx5zzkbkactav9wevgemmvry")) { State.reset with cfg := ⟨true⟩ } =
    some (0x0, 0x00, [], 1508808576371, 392928161897179156999966) := by decide +kernel

/-- Table 2.4: a bad character is reported before the timestamp. -/
theorem test_dec_precedence : said (.dec 26 (chars "8U000000000000000000000000")) State.reset =
    some (0x5, 0x01, [], 0, 0) := by decide +kernel

/-- Table 2.5. -/
theorem test_gen_example :
    said (.gen 1 1508808576371) { State.reset with entIn := [⟨1, 0x5334ADA78EDC1D4A6F1E⟩] } =
      some (0x0, 0x00, stringCodes "01BX5ZZKBKACTAV9WEVGEMMVRY", 1508808576371, 392928161897179156999966) := by decide

/-- Table 2.5: a failed sample sets FATAL. -/
theorem test_gen_fails : registersAfter (.gen 1 5) { State.reset with entIn := [⟨0, 0⟩] } = some (0, none, 0, 1) := by
  decide

/-- Table 2.6: the last increment. -/
theorem test_genm_last_increment :
    said (.genm 1 1508808576371) (loaded 1508808576371 1208925819614629174706174 []) =
      some (0x0, 0x00, stringCodes "01BX5ZZKBKZZZZZZZZZZZZZZZZ", 1508808576371, 1208925819614629174706175) := by decide

/-- Table 2.6: a time that goes backward is a new millisecond. -/
theorem test_genm_backward : registersAfter (.genm 1 0) (loaded 1 0x100 [⟨1, 0x10⟩]) = some (0, some 0x10, 1, 0) := by
  decide

/-- Table 2.7. -/
theorem test_init_loads : registersAfter (.init 1508808576371 1 1208925819614629174706174) State.reset =
    some (1508808576371, some 1208925819614629174706174, 1, 0) := by decide

/-- Table 2.7, NEWGEN. -/
theorem test_init_unset : registersAfter (.init 0 0 0) (loaded 5 3 []) = some (0, none, 0, 0) := by decide

/-! ### Notation (R57, R59) -/

/-- P1 step 1, from its text to its listing. -/
theorem test_listing_of_line :
    ((parseLine "INIT 1508808576371, 0xFFFFFFFFFFFFFFFFFFFE ; top").bind fun p => (assemble p.line).map listing) =
      some "07 | ITS=015F4BFFCD73 | IRV=1 | IRND=FFFFFFFFFFFFFFFFFFFE" := by decide +kernel

/-- P2 step 6. -/
theorem test_listing_out_of_range : ((parseLine "ENC -1").bind fun p => (assemble p.line).map listing) =
    some "01 | V_OOR=1 | V_W=00000000000000000000000000000000" := by decide +kernel

/-- The text `s` in braces (R57). -/
def braces (s : String) : String := String.ofList ([Char.ofNat 123] ++ s.toList ++ [Char.ofNat 125])

/-- R57's samples stand behind the command, and a quote is closed on its line (log entry 13). -/
theorem test_unreadable_lines :
    ((parseLine ("ENC " ++ String.ofList [Char.ofNat 34] ++ "5")).isNone = true) ∧
    ((parseLine (braces "clk=1" ++ " GEN clk")).isNone = true) ∧
    ((parseLine ("GEN clk " ++ braces "clk=1" ++ " " ++ braces "clk=2")).isNone = true) := by decide +kernel

/-- R57: `GEN clk` with its two samples written behind it. -/
theorem test_samples_of_line : parseLine ("GEN clk " ++ braces "clk=0x10" ++ " " ++ braces "ent=fail") =
    some ⟨.genClk, some 16, some ⟨0, 0⟩⟩ := by decide +kernel

/-! ### Witnesses: the hypotheses of each statement can be met together, clause by clause -/

theorem witness_LegalWordsAreTheNine :
    (0x00#8 ∉ legalWords) ∧ (0x08#8 ∉ legalWords) ∧ (0x17#8 ∉ legalWords) ∧ (0x25#8 ∉ legalWords) := by decide

theorem witness_DecodeOfEncode :
    (Instr.enc 340282366920938463463374607431768211455).wellFormed = true ∧ (Instr.enc (-1)).wellFormed = true ∧
    (Instr.encts 281474976710655).wellFormed = true ∧ (Instr.encts (-1)).wellFormed = true ∧
    (Instr.dec 0xFFFF (chars "")).wellFormed = true ∧ (Instr.genm 1 0xFFFFFFFFFFFF).wellFormed = true := by decide

theorem witness_DecodedLinesComeBack :
    (∃ c i, decode c = .ok i ∧ mnemonicOf i = .ENC ∧ c.vOor = 0) ∧ (∃ c i, decode c = .ok i ∧ mnemonicOf i = .ENCTS ∧ c.tOor = 0) ∧
    (∃ c i, decode c = .ok i ∧ mnemonicOf i = .DECG) ∧ (∃ c i, decode c = .ok i ∧ mnemonicOf i = .DEC) ∧
    (∃ c i, decode c = .ok i ∧ mnemonicOf i = .GEN) ∧ (∃ c i, decode c = .ok i ∧ mnemonicOf i = .GENM) ∧
    (∃ c i, decode c = .ok i ∧ mnemonicOf i = .INIT) :=
  ⟨⟨{ cmd := 0x01 }, _, rfl, rfl, rfl⟩, ⟨{ cmd := 0x02 }, _, rfl, rfl, rfl⟩, ⟨{ cmd := 0x03 }, _, rfl, rfl⟩,
    ⟨{ cmd := 0x04 }, _, rfl, rfl⟩, ⟨{ cmd := 0x15 }, _, rfl, rfl⟩, ⟨{ cmd := 0x06 }, _, rfl, rfl⟩, ⟨{ cmd := 0x07 }, _, rfl, rfl⟩⟩

theorem witness_IntegerOperandAssembly :
    (∃ c : Command, c.cmd = 0x01 ∧ c.vOor = 1) ∧ (∃ c : Command, c.cmd = 0x02 ∧ c.tOor = 1) ∧
    (∃ c : Command, c.cmd = 0x01 ∧ c.vOor = 0 ∧ c.vW = 0xFFFFFFFFFFFFFFFFFFFFFFFFFFFFFFFF) ∧ State.reset.fatal = 0 :=
  ⟨⟨{ cmd := 0x01, vOor := 1 }, rfl, rfl⟩, ⟨{ cmd := 0x02, tOor := 1 }, rfl, rfl⟩,
    ⟨{ cmd := 0x01, vW := 0xFFFFFFFFFFFFFFFFFFFFFFFFFFFFFFFF }, rfl, rfl, rfl⟩, rfl⟩

theorem witness_EncResult : State.reset.fatal = 0 ∧
    (∃ v : Int, 0 ≤ v ∧ v < 2 ^ 128 ∧ v = 2 ^ 128 - 1) ∧ (∃ v : Int, 0 ≤ v ∧ v < 2 ^ 128 ∧ v = 0) ∧
    (∃ v : Int, (v < 0 ∨ 2 ^ 128 ≤ v) ∧ v = -1) ∧ (∃ v : Int, (v < 0 ∨ 2 ^ 128 ≤ v) ∧ v = 2 ^ 128) :=
  ⟨rfl, ⟨2 ^ 128 - 1, by decide⟩, ⟨0, by decide⟩, ⟨-1, by decide⟩, ⟨2 ^ 128, by decide⟩⟩

theorem witness_EnctsResult : State.reset.fatal = 0 ∧
    (∃ t : Int, 0 ≤ t ∧ t ≤ 281474976710655 ∧ t = 281474976710655) ∧ (∃ t : Int, 0 ≤ t ∧ t ≤ 281474976710655 ∧ t = 0) ∧
    (∃ t : Int, (t < 0 ∨ 281474976710655 < t) ∧ t = -1) ∧ (∃ t : Int, (t < 0 ∨ 281474976710655 < t) ∧ t = 281474976710656) :=
  ⟨rfl, ⟨281474976710655, by decide⟩, ⟨0, by decide⟩, ⟨-1, by decide⟩, ⟨281474976710656, by decide⟩⟩

theorem witness_PrefixLaw : ∃ v v' : Int, 0 ≤ v ∧ v < 2 ^ 128 ∧ 0 ≤ v' ∧ v' < 2 ^ 128 ∧ State.reset.fatal = 0 ∧
    v % 2 ^ 80 = v' % 2 ^ 80 ∧ v ≠ v' := ⟨5, 2 ^ 127 + 5, by decide⟩

theorem witness_OrderLaw : ∃ v1 v2 : Int, 0 ≤ v1 ∧ v1 < v2 ∧ v2 < 2 ^ 128 ∧ State.reset.fatal = 0 :=
  ⟨0, 2 ^ 128 - 1, by decide⟩

theorem witness_OutputsAreAlphabetic :
    (∃ t r, exec (.enc 0) State.reset = .next t ∧ t.response = some r ∧ r.err = 0) ∧
    (∃ t r, exec (.gen 1 0) (loaded 1 2 [⟨1, 3⟩]) = .next t ∧ t.response = some r ∧ r.err = 0) ∧
    (∃ t r, exec (.genm 1 1) (loaded 1 2 []) = .next t ∧ t.response = some r ∧ r.err = 0) ∧
    (∃ t r, exec (.encts 0) State.reset = .next t ∧ t.response = some r ∧ r.err = 0) :=
  ⟨⟨_, _, rfl, rfl, rfl⟩, ⟨_, _, rfl, rfl, rfl⟩, ⟨_, _, rfl, rfl, rfl⟩, ⟨_, _, rfl, rfl, rfl⟩⟩

/-- The largest timestamp in range and the smallest past it. -/
theorem witness_DecgResult : State.reset.fatal = 0 ∧
    groupsValue ((charGroups false (chars "7ZZZZZZZZZ0000000000000000")).toList.take 10) ≤ 281474976710655 ∧
    281474976710655 < groupsValue ((charGroups false (chars "80000000000000000000000000")).toList.take 10) := by
  decide +kernel

theorem witness_DecResult : State.reset.fatal = 0 ∧ 25 ≠ 26 ∧ 27 ≠ 26 ∧
    unsym State.reset.cfg.caseFold (chars "0000000000000000000000000U")[25] = none ∧
    (∀ j : Fin 26, j < 25 → unsym State.reset.cfg.caseFold (chars "0000000000000000000000000U")[j] ≠ none) ∧
    unsym State.reset.cfg.caseFold (chars "I0000000000000000000000000")[0] = none ∧
    (∀ i : Fin 26, unsym State.reset.cfg.caseFold (chars "7ZZZZZZZZZ0000000000000000")[i] =
      some (charGroups false (chars "7ZZZZZZZZZ0000000000000000"))[i]) ∧
    (∀ i : Fin 26, unsym State.reset.cfg.caseFold (chars "80000000000000000000000000")[i] =
      some (charGroups false (chars "80000000000000000000000000"))[i]) := by
  decide +kernel

theorem witness_DecodeUndoesEncode : ∃ v : Int, 0 ≤ v ∧ v < 2 ^ 128 ∧ State.reset.fatal = 0 := ⟨2 ^ 128 - 1, by decide⟩

theorem witness_EncodeUndoesDecode :
    (charGroups false (chars "7ZZZZZZZZZ0000000000000000"))[0].toNat ≤ 7 ∧
    (responseOf (exec (.dec 26 (chars "01BX5ZZKBKACTAV9WEVGEMMVRY")) State.reset)).map Response.err = some 0 ∧
    (responseOf (exec (.dec 26 (chars "01bx5zzkbkactav9wevgemmvry")) { State.reset with cfg := ⟨true⟩ })).map Response.err =
      some 0 := by
  decide +kernel

theorem witness_LeadingCharacterLaw : State.reset.fatal = 0 ∧
    (∀ i : Fin 26, unsym State.reset.cfg.caseFold (chars "7ZZZZZZZZZZZZZZZZZZZZZZZZZ")[i] ≠ none) ∧
    (chars "7ZZZZZZZZZZZZZZZZZZZZZZZZZ")[0] ∈ stringCodes "01234567" ∧
    (∀ i : Fin 26, unsym State.reset.cfg.caseFold (chars "80000000000000000000000000")[i] ≠ none) ∧
    (chars "80000000000000000000000000")[0] ∈ stringCodes "89ABCDEFGHJKMNPQRSTVWXYZ" := by
  decide +kernel

theorem witness_InverseAlphabet :
    (0x55#8 ∈ stringCodes "ILOUilou") ∧ 0x80 ≤ (0x80#8).toNat ∧ (0x1F#8).toNat < 0x20 ∧ (0x7F#8).toNat = 0x7F ∧
    (0x20 ≤ (0x2F#8).toNat ∧ (0x2F#8).toNat ≤ 0x2F) ∧ (0x3A ≤ (0x3A#8).toNat ∧ (0x3A#8).toNat ≤ 0x40) ∧
    (0x5B ≤ (0x60#8).toNat ∧ (0x60#8).toNat ≤ 0x60) ∧ (0x7B ≤ (0x7B#8).toNat ∧ (0x7B#8).toNat ≤ 0x7E) ∧
    (0x61 ≤ (0x7A#8).toNat ∧ (0x7A#8).toNat ≤ 0x7A) := by decide

theorem witness_AlphabetIncreases : (0 : Group) < 31 := by decide

theorem witness_GenResult :
    (loaded 1 2 [⟨1, 3⟩]).fatal = 0 ∧ (entSample (loaded 1 2 [⟨1, 3⟩])).ok = 1 ∧ (entSample (loaded 1 2 [⟨0, 0⟩])).ok = 0 := by
  decide

/-- Each of the five clauses: a new millisecond with a good and with a failed sample; the same millisecond unset, at the
maximum, and just below it; the time from the clock and from the seed. -/
theorem witness_GenmResult :
    (7 ≠ (loaded 1 2 [⟨1, 3⟩]).lastTs ∧ clkSample (loaded 1 2 [⟨1, 3⟩]) = 7 ∧ (entSample (loaded 1 2 [⟨1, 3⟩])).ok = 1) ∧
    (7 ≠ (loaded 1 2 [⟨0, 3⟩]).lastTs ∧ (entSample (loaded 1 2 [⟨0, 3⟩])).ok = 0) ∧
    (0 = State.reset.lastTs ∧ State.reset.rndValid = 0 ∧ State.reset.fatal = 0) ∧
    (5 = (loaded 5 1208925819614629174706175 []).lastTs ∧ (loaded 5 1208925819614629174706175 []).rndValid = 1 ∧
      (1208925819614629174706175#80).toNat = 2 ^ 80 - 1) ∧
    (5 = (loaded 5 1208925819614629174706174 []).lastTs ∧ (loaded 5 1208925819614629174706174 []).fatal = 0 ∧
      (1208925819614629174706174#80).toNat < 2 ^ 80 - 1) := by decide

theorem witness_InitResult : State.reset.fatal = 0 ∧ fatalState.fatal = 1 ∧ (1208925819614629174706175#80).toNat = 2 ^ 80 - 1 := by
  decide

/-- P5: three GENM commands in one millisecond, none of them an INIT or a reset; their outputs are there and in time order. -/
theorem witness_MonotonicRunIncreases :
    let s : State := { holding (List.replicate 3 (.command { cmd := 0x16, tseed := 0x015F4BFFCD73 })) with
      entIn := [⟨1, 0x5334ADA78EDC1D4A6F1E⟩] }
    (∀ e ∈ s.pending, KeepsGenerator e) ∧ (genmOutputs 3 s).length = 3 ∧
    (genmOutputs 3 s).Pairwise (fun a b => a.ts.toNat ≤ b.ts.toNat) := by
  refine ⟨?_, by decide +kernel, by decide +kernel⟩
  intro e he
  rw [show e = .command { cmd := 0x16, tseed := 0x015F4BFFCD73 } from List.eq_of_mem_replicate he]
  show opcodeOf 0x16 ≠ some .INIT
  decide

theorem witness_PlainGeneratorOrder :
    (∃ t r, exec (.gen 1 5) (loaded 1 2 [⟨1, 3⟩]) = .next t ∧ t.response = some r ∧ r.err = 0) ∧
    (∃ t r, exec (.gen 0 0) (loaded 1 2 [⟨1, 4⟩]) = .next t ∧ t.response = some r ∧ r.err = 0) ∧
    (selectedTime 1 5 (loaded 1 2 [⟨1, 3⟩])).toNat < (selectedTime 0 0 (loaded 1 2 [⟨1, 4⟩])).toNat ∧
    selectedTime 1 7 (loaded 1 2 [⟨1, 3⟩]) = selectedTime 0 0 (loaded 1 2 [⟨1, 4⟩]) :=
  ⟨⟨_, _, rfl, rfl, rfl⟩, ⟨_, _, rfl, rfl, rfl⟩, by decide, by decide⟩

theorem witness_OverflowRecovery :
    ∃ t r, exec (.genm 1 5) (loaded 5 1208925819614629174706175 [⟨1, 9⟩]) = .next t ∧ t.response = some r ∧ r.err = 0x7 ∧
      selectedTime 1 5 t = t.lastTs ∧ selectedTime 1 6 t ≠ t.lastTs ∧ (entSample t).ok = 1 :=
  ⟨_, _, rfl, rfl, rfl, rfl, by decide, rfl⟩

theorem witness_EmittedStringsDecode :
    (∃ t r, exec (.gen 1 0) (loaded 1 2 [⟨1, 3⟩]) = .next t ∧ t.response = some r ∧ r.err = 0) ∧
    (∃ t r, exec (.genm 0 0) (loaded 1 2 [⟨1, 3⟩]) = .next t ∧ t.response = some r ∧ r.err = 0) ∧ State.reset.fatal = 0 :=
  ⟨⟨_, _, rfl, rfl, rfl⟩, ⟨_, _, rfl, rfl, rfl⟩, rfl⟩

theorem witness_PortSampling :
    (∃ t, exec (.genm 0 0) (loaded 1 2 [⟨1, 3⟩]) = .next t ∧ selectedTime 0 0 (loaded 1 2 [⟨1, 3⟩]) ≠ (loaded 1 2 []).lastTs) ∧
    (∃ t, exec (.genm 1 1) (loaded 1 2 [⟨1, 3⟩]) = .next t ∧ selectedTime 1 1 (loaded 1 2 [⟨1, 3⟩]) = (loaded 1 2 []).lastTs) ∧
    (∃ t, exec (.gen 0 0) (loaded 1 2 [⟨1, 3⟩]) = .next t) ∧ (∃ t, exec (.gen 0 0) fatalState = .next t) :=
  ⟨⟨_, rfl, by decide⟩, ⟨_, rfl, by decide⟩, ⟨_, rfl⟩, ⟨_, rfl⟩⟩

theorem witness_PseudoInstructions : State.reset.fatal = 0 ∧ fatalState.fatal = 1 := by decide

theorem witness_ErrorsOfEachCommand :
    (∃ t r, exec (.init 1 1 1) State.reset = .next t ∧ t.response = some r) ∧
    (∃ t r, step (holding [.command { cmd := 0x02, tOor := 1 }]) = .next t ∧ t.response = some r) :=
  ⟨⟨_, _, rfl, rfl⟩, ⟨_, _, rfl, rfl⟩⟩

theorem witness_ErrorsChangeNoState :
    (∃ t r, step (holding [.command { cmd := 0xFF }]) = .next t ∧ t.response = some r ∧ r.err ≠ 0 ∧ r.err ≠ 0x8) ∧
    (∃ t r, step { holding [.command { cmd := 0x15 }] with entIn := [⟨0, 0⟩] } = .next t ∧ t.response = some r ∧
      r.err ≠ 0 ∧ r.err = 0x8) :=
  ⟨⟨_, _, rfl, rfl, by decide, by decide⟩, ⟨_, _, rfl, rfl, by decide, rfl⟩⟩

theorem witness_FatalRefusesEveryCommand :
    (∃ (s : State) (c : Command), s.wasReset = true ∧ s.fatal = 1 ∧ s.pending = [.command c]) ∧
    (∃ s t : State, step s = .next t ∧ s.fatal = 1 ∧ t.fatal = 0 ∧ s.pending = [.reset]) :=
  ⟨⟨{ fatalState with pending := [.command { cmd := 0 }] }, _, rfl, rfl, rfl⟩,
    ⟨{ fatalState with pending := [.reset] }, _, rfl, rfl, rfl, rfl⟩⟩

theorem witness_IllegalWordsRaise :
    (∃ (s : State) (c : Command), s.wasReset = true ∧ s.fatal = 0 ∧ s.pending = [.command c] ∧ c.cmd ∉ legalWords) ∧
    (∀ w ∈ legalWords, ∃ c : Command, c.cmd = w) :=
  ⟨⟨holding [.command { cmd := 0x12 }], _, rfl, rfl, rfl, by decide⟩, fun w _ => ⟨{ cmd := w }, rfl⟩⟩

/-- P4 step 2, then the two times of a GENM after the reset. -/
theorem witness_RngFailNeedsReset :
    (∃ t r, step { holding [.command { cmd := 0x15, tseed := 5 }] with entIn := [⟨0, 0⟩, ⟨1, 1⟩] } = .next t ∧
      t.response = some r ∧ r.err = 0x8 ∧
      ∃ u, step { t with pending := [.reset] } = .next u ∧ selectedTime 1 1 u ≠ 0 ∧ (entSample u).ok = 1 ∧
        selectedTime 1 0 u = 0) :=
  ⟨_, _, rfl, rfl, rfl, _, rfl, by decide, rfl, rfl⟩

theorem witness_ResponsesAreWellFormed :
    (∃ t r, step (holding [.command { cmd := 0x01 }]) = .next t ∧ t.response = some r ∧ r.err = 0 ∧ r.nsym = 26) ∧
    (∃ t r, step (holding [.command { cmd := 0x02 }]) = .next t ∧ t.response = some r ∧ r.err = 0 ∧ r.nsym = 10) ∧
    (∃ t r, step (holding [.command { cmd := 0x04 }]) = .next t ∧ t.response = some r ∧ r.err ≠ 0 ∧ r.nsym = 0) :=
  ⟨⟨_, _, rfl, rfl, rfl, rfl⟩, ⟨_, _, rfl, rfl, rfl, rfl⟩, ⟨_, _, rfl, rfl, by decide, rfl⟩⟩

theorem witness_GeneratorRegistersUntouched :
    mnemonicOf (.gen 1 0) ≠ .GENM ∧ mnemonicOf (.gen 1 0) ≠ .INIT ∧ mnemonicOf (.dec 26 (chars "")) ≠ .GENM ∧
    mnemonicOf (.dec 26 (chars "")) ≠ .INIT := by decide

theorem witness_CodecHasNoSideEffect :
    (∃ t, exec (.enc 5) State.reset = .next t) ∧ (∃ t, exec (.encts 5) State.reset = .next t) ∧
    (∃ t, exec (.decg (unpackGroups 5)) State.reset = .next t) ∧ (∃ t, exec (.dec 26 (chars "")) State.reset = .next t) :=
  ⟨⟨_, rfl⟩, ⟨_, rfl⟩, ⟨_, rfl⟩, ⟨_, rfl⟩⟩

theorem witness_RegisterWriters :
    (∃ t, exec (.genm 1 9) (loaded 1 2 [⟨1, 3⟩]) = .next t ∧ t.lastTs ≠ (loaded 1 2 []).lastTs ∧
      t.lastRnd ≠ (loaded 1 2 []).lastRnd) ∧
    (∃ t, exec (.init 1 0 0) (loaded 1 2 []) = .next t ∧ t.rndValid ≠ (loaded 1 2 []).rndValid) ∧
    (∃ t, exec (.gen 1 9) (loaded 1 2 [⟨0, 3⟩]) = .next t ∧ t.fatal ≠ (loaded 1 2 []).fatal) :=
  ⟨⟨_, rfl, by decide, by decide⟩, ⟨_, rfl, by decide⟩, ⟨_, rfl, by decide⟩⟩

theorem witness_CaseFoldMattersToDecOnly :
    (∃ t, step (holding [.command { cmd := 0x04 }]) = .next t) ∧ mnemonicOf (.genm 1 0) ≠ .DEC := ⟨⟨_, rfl⟩, by decide⟩

theorem witness_TagAgreementKept : ∃ s t : State, TagAgrees s ∧ step s = .next t ∧ s.rndValid = 1 :=
  ⟨{ loaded 1 2 [⟨1, 3⟩] with pending := [.command { cmd := 0x16, tseed := 4 }] }, _, by unfold TagAgrees; decide, rfl, rfl⟩

theorem witness_ResetInputResets : ∃ s : State, s.pending = [.reset] ∧ s.fatal = 1 ∧ s.wasReset = false :=
  ⟨{ fatalState with pending := [.reset], wasReset := false }, rfl, rfl, rfl⟩

theorem witness_StuckBeforeReset :
    (∃ (s : State) (c : Command), s.wasReset = false ∧ s.pending = [.command c]) ∧
    (∃ s : State, s.wasReset = false ∧ s.pending = [.reset]) :=
  ⟨⟨{ holding [.command { cmd := 0x01 }] with wasReset := false }, _, rfl, rfl⟩,
    ⟨{ holding [.reset] with wasReset := false }, rfl, rfl⟩⟩

theorem witness_StepRunsDecoded :
    ∃ (s : State) (c : Command) (i : Instr), s.wasReset = true ∧ s.pending = [.command c, .reset] ∧ decode c = .ok i :=
  ⟨holding [.command { cmd := 0x07, its := 3 }, .reset], _, _, rfl, rfl, rfl⟩

theorem witness_PresentedWordRuns : ∃ i, decodeTableWord 8 0x16 = some i := ⟨_, rfl⟩

theorem witness_EveryCommandResponds : ∃ (s : State) (c : Command), s.wasReset = true ∧ s.pending = [.command c] :=
  ⟨holding [.command { cmd := 0xFF }], _, rfl, rfl⟩

theorem witness_AcceptanceOrder :
    ∃ t, step (holding [.command { cmd := 0x06 }, .command { cmd := 0x01 }]) = .next t := ⟨_, rfl⟩

theorem witness_IdleHoldsState : State.reset.pending = [] := rfl

/-- A held pair, with a step that emits nothing, and with one that emits the next pair. -/
theorem witness_LastEmittedPairKept :
    (∃ s t last, HoldsEmitted last s ∧ s.pending = [.command { cmd := 0x01 }] ∧ step s = .next t ∧
      (∀ e, s.pending.head? = some e → KeepsGenerator e) ∧ genmOutput s t = []) ∧
    (∃ s t r last, HoldsEmitted last s ∧ step s = .next t ∧ (∀ e, s.pending.head? = some e → KeepsGenerator e) ∧
      genmOutput s t = [r] ∧ r.rnd = 3) :=
  ⟨⟨{ loaded 1 2 [] with pending := [.command { cmd := 0x01 }] }, _, { blankResponse .ok 0 with ts := 1, rnd := 2 },
      ⟨rfl, rfl, rfl⟩, rfl, rfl, fun e h => by cases h; show opcodeOf 0x01 ≠ some .INIT; decide, rfl⟩,
    ⟨{ loaded 1 2 [] with pending := [.command { cmd := 0x16, tseed := 1 }] }, _, _,
      { blankResponse .ok 0 with ts := 1, rnd := 2 }, ⟨rfl, rfl, rfl⟩, rfl,
      fun e h => by cases h; show opcodeOf 0x16 ≠ some .INIT; decide, rfl, rfl⟩⟩

end Sys2Proof.Tests
end

section
/-!
PROOFS. The step as the scope rules give it (00_scope.md R7, R12, R29): a step runs the decoded command, every command responds,
and CASE_FOLD is written by no step and read by DEC alone.
-/

namespace Sys2Proof.Machine

open Sys2Proof.Safety

/-! ### A step that takes a command (20_memory.md R48) -/

/-- A legal command in front of the port is executed on the state it has left the port of. -/
theorem step_of_decode_ok {s : State} {c : Command} {rest : List PortEvent} {i : Instr} (hw : s.wasReset = true)
    (hp : s.pending = .command c :: rest) (hd : decode c = .ok i) : step s = exec i (acceptEvent rest s) := by
  simp [step, hp, hw, hd]

/-- An illegal one is refused there (30_encoding.md R55). -/
theorem step_of_decode_error {s : State} {c : Command} {rest : List PortEvent} (hw : s.wasReset = true)
    (hp : s.pending = .command c :: rest) (hd : decode c = .error (.illegal c.cmd)) :
    step s = .next (refuseIllegal c.cmd (acceptEvent rest s)) := by
  simp [step, hp, hw, hd]

/-! ### Every command responds (10_state.md R30) -/

theorem decodeGroups_responds (g : Vector Group 26) (s : State) : ∃ r, (decodeGroups g s).response = some r := by
  rcases decodeGroups_cases g s with ⟨_, h⟩ | ⟨_, h⟩ <;> simp [h]

theorem decodeString_responds (len : Nat) (chars : Vector Code 26) (s : State) :
    ∃ r, (decodeString len chars s).response = some r := by
  rcases decodeString_cases len chars s with ⟨_, h⟩ | ⟨_, i, _, h⟩ | ⟨_, _, h⟩
  · simp [h]
  · simp [h]
  · exact h ▸ decodeGroups_responds _ s

theorem generatePlain_responds (t : Millis) (s : State) : ∃ r, (generatePlain t s).response = some r := by
  rcases generatePlain_cases t s with ⟨_, h⟩ | ⟨_, h⟩ <;> simp [h]

theorem generateMonotonic_responds (t : Millis) (s : State) : ∃ r, (generateMonotonic t s).response = some r := by
  rcases generateMonotonic_cases t s with ⟨_, _, h⟩ | ⟨_, _, h⟩ | ⟨_, _, h⟩ | ⟨r, _, _, _, h⟩ | ⟨r, _, _, _, h⟩ <;> simp [h]

/-- The body of every command ends with a response, whatever its operands and the state. -/
theorem body_responds (i : Instr) (s : State) : ∃ r, (body i s).response = some r := by
  cases i with
  | enc v => simp only [body]; split <;> simp
  | encts t => simp only [body]; split <;> simp
  | decg groups => exact decodeGroups_responds groups s
  | dec len chars => exact decodeString_responds len chars s
  | gen sel tseed => exact generatePlain_responds _ _
  | genm sel tseed => exact generateMonotonic_responds _ _
  | init its irv irnd => exact ⟨_, rfl⟩

/-- The prelude responds itself, or leaves it to the body. -/
theorem withPrelude_responds {f : State → State} {s : State} (h : ∃ r, (f s).response = some r) :
    ∃ r, (withPrelude f s).response = some r := by
  rcases withPrelude_cases f s with ⟨_, e⟩ | ⟨_, e⟩
  · simp [e]
  · exact e ▸ h

theorem refuseIllegal_responds (cmd : BitVec 8) (s : State) : ∃ r, (refuseIllegal cmd s).response = some r :=
  withPrelude_responds ⟨_, raise_response .illegal cmd s⟩

/-! ### No step writes CASE_FOLD (00_scope.md R7) -/

@[simp] theorem decodeGroups_cfg (g : Vector Group 26) (s : State) : (decodeGroups g s).cfg = s.cfg := by
  rcases decodeGroups_cases g s with ⟨_, h⟩ | ⟨_, h⟩ <;> simp [h]

@[simp] theorem decodeString_cfg (len : Nat) (chars : Vector Code 26) (s : State) :
    (decodeString len chars s).cfg = s.cfg := by
  rcases decodeString_cases len chars s with ⟨_, h⟩ | ⟨_, i, _, h⟩ | ⟨_, _, h⟩ <;> simp [h]

@[simp] theorem generatePlain_cfg (t : Millis) (s : State) : (generatePlain t s).cfg = s.cfg := by
  rcases generatePlain_cases t s with ⟨_, h⟩ | ⟨_, h⟩ <;> simp [h]

@[simp] theorem generateMonotonic_cfg (t : Millis) (s : State) : (generateMonotonic t s).cfg = s.cfg := by
  rcases generateMonotonic_cases t s with ⟨_, _, h⟩ | ⟨_, _, h⟩ | ⟨_, _, h⟩ | ⟨r, _, _, _, h⟩ | ⟨r, _, _, _, h⟩ <;> simp [h]

@[simp] theorem loadGenerator_cfg (its : Millis) (irv : BitVec 1) (irnd : Payload) (s : State) :
    (loadGenerator its irv irnd s).cfg = s.cfg := by
  unfold loadGenerator; split <;> rfl

/-- No command's body writes the build parameter. -/
@[simp] theorem body_cfg (i : Instr) (s : State) : (body i s).cfg = s.cfg := by
  cases i with
  | enc v => simp only [body]; split <;> rfl
  | encts t => simp only [body]; split <;> rfl
  | decg groups => exact decodeGroups_cfg groups s
  | dec len chars => exact decodeString_cfg len chars s
  | gen sel tseed => simp [body]
  | genm sel tseed => simp [body]
  | init its irv irnd => simp [body]

@[simp] theorem refuseIllegal_cfg (cmd : BitVec 8) (s : State) : (refuseIllegal cmd s).cfg = s.cfg := by
  rcases withPrelude_cases (raise .illegal cmd) s with ⟨_, h⟩ | ⟨_, h⟩ <;> simp [refuseIllegal, h]

theorem exec_keeps_cfg {i : Instr} {s t : State} (h : exec i s = .next t) : t.cfg = s.cfg := by
  rcases exec_cases i s t h with ⟨_, rfl⟩ | ⟨_, rfl⟩ <;> simp

/-- Every step, resets included, keeps the build parameter. -/
theorem step_keeps_cfg {s t : State} (h : step s = .next t) : t.cfg = s.cfg := by
  rcases step_cases s t h with ⟨_, rfl⟩ | ⟨rest, _, rfl⟩ | ⟨c, rest, i, _, _, _, he⟩ | ⟨c, rest, _, _, _, rfl⟩
  · simp
  · simp
  · simpa using exec_keeps_cfg he
  · simp

/-! ### Only DEC reads CASE_FOLD (10_state.md R25)

Every operation but `decodeString` commutes with a change of the build parameter. -/

/-- The same state of a block built with `cfg`. -/
def withCfg (cfg : Config) (s : State) : State := { s with cfg := cfg }

@[simp] theorem withCfg_lastTs (cfg : Config) (s : State) : (withCfg cfg s).lastTs = s.lastTs := rfl
@[simp] theorem heldRnd_withCfg (cfg : Config) (s : State) : heldRnd (withCfg cfg s) = heldRnd s := rfl
@[simp] theorem entSample_withCfg (cfg : Config) (s : State) : entSample (withCfg cfg s) = entSample s := rfl
@[simp] theorem selectedTime_withCfg (sel : BitVec 1) (tseed : Millis) (cfg : Config) (s : State) :
    selectedTime sel tseed (withCfg cfg s) = selectedTime sel tseed s := rfl

@[simp] theorem afterTime_withCfg (sel : BitVec 1) (cfg : Config) (s : State) :
    afterTime sel (withCfg cfg s) = withCfg cfg (afterTime sel s) := by
  unfold afterTime; split <;> rfl

theorem decodeGroups_withCfg (g : Vector Group 26) (cfg : Config) (s : State) :
    decodeGroups g (withCfg cfg s) = withCfg cfg (decodeGroups g s) := by
  unfold decodeGroups; split <;> rfl

theorem generatePlain_withCfg (t : Millis) (cfg : Config) (s : State) :
    generatePlain t (withCfg cfg s) = withCfg cfg (generatePlain t s) := by
  unfold generatePlain; rw [entSample_withCfg]; split <;> rfl

theorem newMillisecond_withCfg (t : Millis) (cfg : Config) (s : State) :
    newMillisecond t (withCfg cfg s) = withCfg cfg (newMillisecond t s) := by
  unfold newMillisecond; rw [entSample_withCfg]; split <;> rfl

theorem sameMillisecond_withCfg (t : Millis) (cfg : Config) (s : State) :
    sameMillisecond t (withCfg cfg s) = withCfg cfg (sameMillisecond t s) := by
  unfold sameMillisecond
  rw [heldRnd_withCfg]
  cases heldRnd s with
  | none => rfl
  | some r => dsimp only; split <;> rfl

theorem generateMonotonic_withCfg (t : Millis) (cfg : Config) (s : State) :
    generateMonotonic t (withCfg cfg s) = withCfg cfg (generateMonotonic t s) := by
  unfold generateMonotonic
  rw [withCfg_lastTs]
  split
  · exact newMillisecond_withCfg t cfg s
  · exact sameMillisecond_withCfg t cfg s

theorem loadGenerator_withCfg (its : Millis) (irv : BitVec 1) (irnd : Payload) (cfg : Config) (s : State) :
    loadGenerator its irv irnd (withCfg cfg s) = withCfg cfg (loadGenerator its irv irnd s) := by
  unfold loadGenerator; split <;> rfl

/-- The body of every command but DEC does the same under either build parameter. -/
theorem body_withCfg {i : Instr} (hi : mnemonicOf i ≠ .DEC) (cfg : Config) (s : State) :
    body i (withCfg cfg s) = withCfg cfg (body i s) := by
  cases i with
  | enc v => simp only [body]; split <;> rfl
  | encts t => simp only [body]; split <;> rfl
  | decg groups => exact decodeGroups_withCfg groups cfg s
  | dec len chars => exact absurd rfl hi
  | gen sel tseed => simp only [body, selectedTime_withCfg, afterTime_withCfg, generatePlain_withCfg]
  | genm sel tseed => simp only [body, selectedTime_withCfg, afterTime_withCfg, generateMonotonic_withCfg]
  | init its irv irnd => simp only [body, loadGenerator_withCfg]; rfl

/-- So does every such command behind its prelude, which reads FATAL alone. -/
theorem exec_withCfg {i : Instr} (hi : mnemonicOf i ≠ .DEC) (cfg : Config) (s : State) :
    exec i (withCfg cfg s) = mapNext (withCfg cfg) (exec i s) := by
  rcases bit_cases s.fatal with h | h
  · rw [exec_alive i s h, exec_alive i (withCfg cfg s) h, body_withCfg hi]; rfl
  · rw [exec_fatal i s h, exec_fatal i (withCfg cfg s) h]; rfl

/-! ### The statements -/

/-- Settles O49: the equation of a step that takes a legal command. -/
theorem stepRunsDecoded : Obligations.StepRunsDecoded :=
  fun _ _ _ _ hw hp hd => step_of_decode_ok hw hp hd

/-- Settles O51: a legal command responds in its body or its prelude, an illegal one in its refusal. -/
theorem everyCommandResponds : Obligations.EveryCommandResponds := by
  intro s c rest hw hp
  rcases decode_cases c with ⟨m, _, hd⟩ | ⟨_, hd⟩
  · obtain ⟨r, hr⟩ := withPrelude_responds (body_responds (operandsOf m c) (acceptEvent rest s))
    exact ⟨_, r, (step_of_decode_ok hw hp hd).trans (exec_eq _ _), hr⟩
  · obtain ⟨r, hr⟩ := refuseIllegal_responds c.cmd (acceptEvent rest s)
    exact ⟨_, r, step_of_decode_error hw hp hd, hr⟩

/-- Settles O42: no step writes the build parameter, and every command but DEC commutes with a change of it. -/
theorem caseFoldMattersToDecOnly : Obligations.CaseFoldMattersToDecOnly :=
  ⟨fun _ _ h => step_keeps_cfg h, fun _ s cfg hi => exec_withCfg hi cfg s⟩

end Sys2Proof.Machine
end

section
/-!
PROOFS. The state rules of 10_state.md: the alphabet ROM and its inverse with the order of the strings (R24 to R26; 40_encode.md
R63), the responses (R30, R31), who reads and writes the generator registers (R20 to R23, R34), and the port samples (R27, R28).
-/

namespace Sys2Proof.Machine

open Sys2Proof.Safety

/-! ### The alphabet (10_state.md R24 to R26) -/

/-- The ROM increases with the index: 32 fixed codes, compared in pairs. -/
theorem sym_strictMono : ∀ k1 k2 : Group, k1 < k2 → (sym k1).toNat < (sym k2).toNat := by decide +kernel

/-- The inverse map in the words of R25. -/
theorem unsym_eq_some_iff (caseFold : Bool) (c : Code) (k : Group) :
    unsym caseFold c = some k ↔ c = sym k ∨ (caseFold = true ∧ lowerCode k = some c) := by
  rw [unsym_eq_some, accepts, Bool.or_eq_true, Bool.and_eq_true, beq_iff_eq, beq_iff_eq, eq_comm]

/-- The codes R25 lists as having no index, whatever CASE_FOLD is. -/
def OutsideAlphabet (c : Code) : Prop :=
  c ∈ stringCodes "ILOUilou" ∨ 0x80 ≤ c.toNat ∨ c.toNat < 0x20 ∨ c.toNat = 0x7F ∨
    (0x20 ≤ c.toNat ∧ c.toNat ≤ 0x2F) ∨ (0x3A ≤ c.toNat ∧ c.toNat ≤ 0x40) ∨ (0x5B ≤ c.toNat ∧ c.toNat ≤ 0x60) ∨
    (0x7B ≤ c.toNat ∧ c.toNat ≤ 0x7E)

theorem sym_not_outsideAlphabet : ∀ k : Group, ¬ OutsideAlphabet (sym k) := by
  unfold OutsideAlphabet; decide

theorem lowerCode_not_outsideAlphabet : ∀ k : Group, ∀ c ∈ lowerCode k, ¬ OutsideAlphabet c := by
  unfold OutsideAlphabet; decide

theorem sym_toNat_lt_lowerCase : ∀ k : Group, (sym k).toNat < 0x61 := by decide

theorem unsym_of_outsideAlphabet (caseFold : Bool) (c : Code) (hc : OutsideAlphabet c) : unsym caseFold c = none := by
  refine Option.eq_none_iff_forall_ne_some.mpr fun k hk => ?_
  rcases (unsym_eq_some_iff caseFold c k).mp hk with rfl | ⟨_, hl⟩
  · exact sym_not_outsideAlphabet k hc
  · exact lowerCode_not_outsideAlphabet k c hl hc

theorem unsym_lowerCase_of_no_fold (c : Code) (hc : 0x61 ≤ c.toNat) : unsym false c = none := by
  refine Option.eq_none_iff_forall_ne_some.mpr fun k hk => ?_
  rcases (unsym_eq_some_iff false c k).mp hk with rfl | ⟨hf, _⟩
  · exact absurd hc (Nat.not_le.mpr (sym_toNat_lt_lowerCase k))
  · cases hf

/-! ### The order of the emitted strings (40_encode.md R63) -/

/-- The part of a value from its digit `i` up: group `i` is its last base-32 digit. -/
def leadingPart (v : Nat) (i : Fin 26) : Nat := v / 2 ^ (125 - 5 * i.val)

/-- The digits before digit `i` are the part up to the digit before it; in front of digit 0 there is nothing. -/
theorem leadingPart_div (v : Nat) (hv : v < 2 ^ 130) (i : Fin 26) :
    leadingPart v i / 32 = if h : i.val = 0 then 0 else leadingPart v ⟨i.val - 1, by omega⟩ := by
  unfold leadingPart
  split
  · next h => rw [h]; omega
  · next h =>
    rw [Nat.div_div_eq_div_mul, show 125 - 5 * (i.val - 1) = 125 - 5 * i.val + 5 by omega, Nat.pow_add]

/-- The first place where two values' leading parts differ is the first place where their digits do, and the greater value
has the greater digit there. -/
theorem exists_first_smaller_digit (v1 v2 : Nat) (hlt : v1 < v2) (hv : v2 < 2 ^ 130) :
    ∃ i : Fin 26, (∀ j < i, leadingPart v1 j = leadingPart v2 j) ∧ leadingPart v1 i % 32 < leadingPart v2 i % 32 := by
  have hdiff : ∃ i, leadingPart v1 i ≠ leadingPart v2 i := ⟨25, by simpa [leadingPart] using hlt.ne⟩
  obtain ⟨i, hi, hmin⟩ := wellFounded_lt.has_min {i : Fin 26 | leadingPart v1 i ≠ leadingPart v2 i} hdiff
  have hbefore : ∀ j < i, leadingPart v1 j = leadingPart v2 j := fun j hj => by_contra fun hne => hmin j hne hj
  refine ⟨i, hbefore, ?_⟩
  have hle : leadingPart v1 i ≤ leadingPart v2 i := Nat.div_le_div_right hlt.le
  have hne : leadingPart v1 i ≠ leadingPart v2 i := hi
  have hhigh : leadingPart v1 i / 32 = leadingPart v2 i / 32 := by
    rw [leadingPart_div v1 (hlt.trans hv), leadingPart_div v2 hv]
    split
    · rfl
    · exact hbefore _ (by rw [Fin.lt_def]; dsimp only; omega)
  omega

/-- Strings of emitted values are in the order of the values. -/
theorem codeLess_of_emitsValue {r1 r2 : Response} {v1 v2 : Nat} (h1 : EmitsValue r1 v1) (h2 : EmitsValue r2 v2)
    (hlt : v1 < v2) : CodeLess r1.chr r2.chr := by
  have hv : v2 < 2 ^ 130 := by have := r2.val.isLt; rw [h2.val] at this; omega
  obtain ⟨i, hbefore, hdigit⟩ := exists_first_smaller_digit v1 v2 hlt hv
  refine ⟨i, fun j hj => ?_, ?_⟩
  · have hgrp : r1.grp[j] = r2.grp[j] :=
      BitVec.eq_of_toNat_eq ((h1.grp j).trans ((congrArg (· % 32) (hbefore j hj)).trans (h2.grp j).symm))
    rw [h1.chr j, h2.chr j, hgrp]
  · rw [h1.chr i, h2.chr i]
    refine sym_strictMono _ _ ?_
    rw [BitVec.lt_def, h1.grp i, h2.grp i]
    exact hdigit

/-- ENC of a value in range, while the block is not fatal (40_encode.md R60). -/
theorem exec_enc_in_range (v : Int) (s : State) (h0 : 0 ≤ v) (h1 : v < 2 ^ 128) (hs : s.fatal = 0) :
    ∃ r, exec (.enc v) s = .next { s with response := some r } ∧ EmitsValue r v.toNat := by
  have hbody : body (.enc v) s = respond (emission (BitVec.ofNat 128 v.toNat)) s :=
    if_neg (by unfold ulidBound; omega)
  refine ⟨_, (exec_alive _ _ hs).trans (congrArg _ hbody), ?_⟩
  have hv : (BitVec.ofNat 128 v.toNat).toNat = v.toNat := by rw [BitVec.toNat_ofNat]; omega
  simpa only [hv] using emission_emits (BitVec.ofNat 128 v.toNat)

/-! ### Well-formed responses (10_state.md R30, R31) -/

/-- What R30 and R31 say of one response. -/
structure WellFormedResponse (r : Response) : Prop where
  error : r.err ≠ 0 → NoData r
  info : r.err = 0 → r.info = 0
  nsym : r.nsym = 0 ∨ r.nsym = 10 ∨ r.nsym = 26
  rest : ∀ i : Fin 26, r.nsym.toNat ≤ i.val → r.grp[i] = 0 ∧ r.chr[i] = 0
  symbols : ∀ i : Fin 26, i.val < r.nsym.toNat → r.chr[i] = sym r.grp[i]
  value : r.nsym ≠ 10 → r.val.toNat = r.ts.toNat * 2 ^ 80 + r.rnd.toNat
  time : r.nsym = 10 → r.rnd = 0 ∧ r.val = 0

/-- A report of an error, or of OK with no information (INIT). -/
theorem wellFormedResponse_of_reports {r : Response} {code : BitVec 4} {info : BitVec 8} (h : Reports r code info)
    (hinfo : code = 0 → info = 0) : WellFormedResponse r where
  error _ := h.data
  info he := h.info.trans (hinfo (h.err.symm.trans he))
  nsym := .inl h.data.symbols.nsym
  rest i _ := ⟨h.data.symbols.grp i, h.data.symbols.chr i⟩
  symbols i hi := by simp [h.data.symbols.nsym] at hi
  value _ := by simp [h.data.val, h.data.ts, h.data.rnd]
  time hn := by simp [h.data.symbols.nsym] at hn

theorem wellFormedResponse_of_emitsValue {r : Response} {v : Nat} (h : EmitsValue r v) : WellFormedResponse r where
  error he := absurd h.err he
  info _ := h.info
  nsym := .inr (.inr h.nsym)
  rest i hi := by simp [h.nsym] at hi; omega
  symbols i _ := h.chr i
  value _ := by rw [h.val, h.ts, h.rnd]; omega
  time hn := by simp [h.nsym] at hn

theorem wellFormedResponse_of_emitsTime {r : Response} {t : Nat} (h : EmitsTime r t) : WellFormedResponse r where
  error he := absurd h.err he
  info _ := h.info
  nsym := .inr (.inl h.nsym)
  rest i hi := by
    have hi : 10 ≤ i.val := by simpa [h.nsym] using hi
    exact ⟨h.grpRest i hi, h.chrRest i hi⟩
  symbols i hi := h.chr i (by simpa [h.nsym] using hi)
  value hn := absurd h.nsym hn
  time _ := ⟨h.rnd, h.val⟩

theorem wellFormedResponse_of_decodesTo {r : Response} {time random : Nat} (h : DecodesTo r time random) :
    WellFormedResponse r where
  error he := absurd h.err he
  info _ := h.info
  nsym := .inl h.symbols.nsym
  rest i _ := ⟨h.symbols.grp i, h.symbols.chr i⟩
  symbols i hi := by simp [h.symbols.nsym] at hi
  value _ := by rw [h.val, h.ts, h.rnd]
  time hn := by simp [h.symbols.nsym] at hn

theorem wellFormedResponse_blank (e : Err) (info : BitVec 8) (h : errCode e = 0 → info = 0) :
    WellFormedResponse (blankResponse e info) :=
  wellFormedResponse_of_reports (blankResponse_reports e info) h

theorem wellFormedResponse_emission (x : Ulid) : WellFormedResponse (emission x) :=
  wellFormedResponse_of_emitsValue (emission_emits x)

/-! ### The codec commands: a well-formed response, and nothing else

ENC, ENCTS, DECG and DEC read no field of the state but CASE_FOLD and write none but the response (20_memory.md R47). -/

/-- The command is one of the encoder unit or the decoder unit. -/
def IsCodec (i : Instr) : Prop :=
  mnemonicOf i = .ENC ∨ mnemonicOf i = .ENCTS ∨ mnemonicOf i = .DECG ∨ mnemonicOf i = .DEC

/-- A command of the codec, or one of the three of the generator unit. -/
theorem isCodec_or_generator (i : Instr) :
    IsCodec i ∨ (∃ sel x, i = .gen sel x) ∨ (∃ sel x, i = .genm sel x) ∨ (∃ its irv irnd, i = .init its irv irnd) := by
  cases i with
  | enc v => exact .inl (.inl rfl)
  | encts t => exact .inl (.inr (.inl rfl))
  | decg groups => exact .inl (.inr (.inr (.inl rfl)))
  | dec len chars => exact .inl (.inr (.inr (.inr rfl)))
  | gen sel x => exact .inr (.inl ⟨sel, x, rfl⟩)
  | genm sel x => exact .inr (.inr (.inl ⟨sel, x, rfl⟩))
  | init its irv irnd => exact .inr (.inr (.inr ⟨its, irv, irnd, rfl⟩))

/-- A timestamp that passes R80's check leaves the two top bits of the padded value 0. -/
theorem toNat_lt_of_paddedTime_le (w : BitVec 130) (h : (paddedTime w).toNat ≤ maxEpochTime) : w.toNat < 2 ^ 128 := by
  rw [paddedTime, toNat_slice] at h
  unfold maxEpochTime at h
  omega

theorem decodeGroups_eq_respond (g : Vector Group 26) :
    ∃ r, WellFormedResponse r ∧ ∀ s, decodeGroups g s = respond r s := by
  by_cases h : (paddedTime (packGroups g)).toNat > maxEpochTime
  · exact ⟨_, wellFormedResponse_blank .valueTs _ nofun, fun s => if_pos h⟩
  · have hlt := toNat_lt_of_paddedTime_le _ (Nat.not_lt.mp h)
    exact ⟨_, wellFormedResponse_of_decodesTo (decoded_decodes _ hlt), fun s => if_neg h⟩

theorem decodeString_eq_respond (len : Nat) (chars : Vector Code 26) (cfg : Config) :
    ∃ r, WellFormedResponse r ∧ ∀ s : State, s.cfg = cfg → decodeString len chars s = respond r s := by
  by_cases hlen : len = 26
  · cases hbad : firstBadChar cfg.caseFold chars with
    | some i =>
      refine ⟨_, wellFormedResponse_blank .valueChar (positionInfo i) nofun, ?_⟩
      rintro s rfl
      simp [decodeString, hlen, hbad, raise]
    | none =>
      obtain ⟨r, hr, h⟩ := decodeGroups_eq_respond (charGroups cfg.caseFold chars)
      refine ⟨r, hr, ?_⟩
      rintro s rfl
      simp [decodeString, hlen, hbad, h]
  · exact ⟨_, wellFormedResponse_blank .valueLen _ nofun, fun s _ => if_pos hlen⟩

/-- A codec command gives one well-formed response in all the states of a build, and does nothing else. -/
theorem body_codec {i : Instr} (hi : IsCodec i) (cfg : Config) :
    ∃ r, WellFormedResponse r ∧ ∀ s : State, s.cfg = cfg → body i s = respond r s := by
  cases i with
  | enc v =>
    by_cases h : v < 0 ∨ v ≥ ulidBound
    · exact ⟨_, wellFormedResponse_blank .rangeValue 0 nofun, fun s _ => if_pos h⟩
    · exact ⟨_, wellFormedResponse_emission _, fun s _ => if_neg h⟩
  | encts t =>
    by_cases h : t < 0 ∨ t > maxEpochTime
    · exact ⟨_, wellFormedResponse_blank .rangeTs 0 nofun, fun s _ => if_pos h⟩
    · exact ⟨_, wellFormedResponse_of_emitsTime (timeEmission_emits _), fun s _ => if_neg h⟩
  | decg groups =>
    obtain ⟨r, hr, h⟩ := decodeGroups_eq_respond groups
    exact ⟨r, hr, fun s _ => h s⟩
  | dec len chars => exact decodeString_eq_respond len chars cfg
  | gen sel x => simp [IsCodec, mnemonicOf] at hi
  | genm sel x => simp [IsCodec, mnemonicOf] at hi
  | init its irv irnd => simp [IsCodec, mnemonicOf] at hi

/-! ### The response of every step is well formed -/

theorem generatePlain_wellFormed (t : Millis) (s : State) :
    ∃ r, (generatePlain t s).response = some r ∧ WellFormedResponse r := by
  rcases generatePlain_cases t s with ⟨_, h⟩ | ⟨_, h⟩
  · exact ⟨_, congrArg State.response h, wellFormedResponse_blank .rngFail 0 nofun⟩
  · exact ⟨_, congrArg State.response h, wellFormedResponse_emission _⟩

theorem generateMonotonic_wellFormed (t : Millis) (s : State) :
    ∃ r, (generateMonotonic t s).response = some r ∧ WellFormedResponse r := by
  rcases generateMonotonic_cases t s with ⟨_, _, h⟩ | ⟨_, _, h⟩ | ⟨_, _, h⟩ | ⟨r, _, _, _, h⟩ | ⟨r, _, _, _, h⟩
  · exact ⟨_, congrArg State.response h, wellFormedResponse_blank .rngFail 0 nofun⟩
  · exact ⟨_, congrArg State.response h, wellFormedResponse_emission _⟩
  · exact ⟨_, congrArg State.response h, wellFormedResponse_blank .uninit 0 nofun⟩
  · exact ⟨_, congrArg State.response h, wellFormedResponse_blank .overflow 0 nofun⟩
  · exact ⟨_, congrArg State.response h, wellFormedResponse_emission _⟩

theorem body_wellFormed (i : Instr) (s : State) : ∃ r, (body i s).response = some r ∧ WellFormedResponse r := by
  rcases isCodec_or_generator i with hc | ⟨sel, x, rfl⟩ | ⟨sel, x, rfl⟩ | ⟨its, irv, irnd, rfl⟩
  · obtain ⟨r, hr, h⟩ := body_codec hc s.cfg
    exact ⟨r, by rw [h s rfl, respond_response], hr⟩
  · exact generatePlain_wellFormed _ _
  · exact generateMonotonic_wellFormed _ _
  · exact ⟨_, rfl, wellFormedResponse_blank .ok 0 fun _ => rfl⟩

/-- The prelude's own refusal is well formed, whatever the body. -/
theorem withPrelude_wellFormed {f : State → State} {s : State}
    (h : ∃ r, (f s).response = some r ∧ WellFormedResponse r) :
    ∃ r, (withPrelude f s).response = some r ∧ WellFormedResponse r := by
  rcases withPrelude_cases f s with ⟨_, e⟩ | ⟨_, e⟩
  · exact ⟨_, congrArg State.response e, wellFormedResponse_blank .fatal 0 nofun⟩
  · exact e ▸ h

theorem step_wellFormed {s t : State} {r : Response} (h : step s = .next t) (hr : t.response = some r) :
    WellFormedResponse r := by
  have of_exists : (∃ q, t.response = some q ∧ WellFormedResponse q) → WellFormedResponse r := by
    rintro ⟨q, hq, hwf⟩
    cases hq.symm.trans hr
    exact hwf
  rcases step_cases s t h with ⟨_, rfl⟩ | ⟨rest, _, rfl⟩ | ⟨c, rest, i, _, _, _, he⟩ | ⟨c, rest, _, _, _, rfl⟩
  · cases hr
  · cases hr
  · rw [exec_eq] at he
    cases he
    exact of_exists (withPrelude_wellFormed (body_wellFormed i _))
  · exact of_exists (withPrelude_wellFormed ⟨_, rfl, wellFormedResponse_blank .illegal c.cmd nofun⟩)

/-! ### A step that takes no command -/

/-- Nothing presented: the block waits (20_memory.md R41). -/
theorem step_of_idle {s : State} (hp : s.pending = []) : step s = .next (waitIdle s) := by
  simp [step, hp]

/-- The reset input asserted (70_reset_and_hazards.md R140). -/
theorem step_of_reset {s : State} {rest : List PortEvent} (hp : s.pending = .reset :: rest) :
    step s = .next (resetInput (acceptEvent rest s)) := by
  simp [step, hp]

/-- A command before the first reset has no step (R141). -/
theorem step_of_never_reset {s : State} {c : Command} {rest : List PortEvent} (hw : s.wasReset = false)
    (hp : s.pending = .command c :: rest) : step s = .fault .notReset := by
  simp [step, hp, hw]

/-! ### No step reads the previous response (R31)

Every operation ends in `respond`, so what stood on the response port is overwritten; the lemmas pass its change through each
operation. -/

/-- The same state with `q` on the response port. -/
def withResponse (q : Option Response) (s : State) : State := { s with response := q }

theorem afterTime_withResponse (sel : BitVec 1) (q : Option Response) (s : State) :
    afterTime sel (withResponse q s) = withResponse q (afterTime sel s) := by
  unfold afterTime; split <;> rfl

theorem generatePlain_withResponse (t : Millis) (q : Option Response) (s : State) :
    generatePlain t (withResponse q s) = generatePlain t s := rfl

theorem generateMonotonic_withResponse (t : Millis) (q : Option Response) (s : State) :
    generateMonotonic t (withResponse q s) = generateMonotonic t s := rfl

theorem loadGenerator_withResponse (its : Millis) (irv : BitVec 1) (irnd : Payload) (q : Option Response) (s : State) :
    loadGenerator its irv irnd (withResponse q s) = withResponse q (loadGenerator its irv irnd s) := by
  unfold loadGenerator; split <;> rfl

theorem body_withResponse (i : Instr) (q : Option Response) (s : State) : body i (withResponse q s) = body i s := by
  rcases isCodec_or_generator i with hc | ⟨sel, x, rfl⟩ | ⟨sel, x, rfl⟩ | ⟨its, irv, irnd, rfl⟩
  · obtain ⟨r, _, h⟩ := body_codec hc s.cfg
    rw [h s rfl, h (withResponse q s) rfl]; rfl
  · simp only [body, afterTime_withResponse, generatePlain_withResponse]; rfl
  · simp only [body, afterTime_withResponse, generateMonotonic_withResponse]; rfl
  · simp only [body, loadGenerator_withResponse]; rfl

/-- The prelude reads FATAL alone, and its own refusal is a response too. -/
theorem withPrelude_withResponse {f : State → State} {q : Option Response} {s : State}
    (h : f (withResponse q s) = f s) : withPrelude f (withResponse q s) = withPrelude f s := by
  unfold withPrelude; rw [h]; rfl

theorem exec_withResponse (i : Instr) (q : Option Response) (s : State) : exec i (withResponse q s) = exec i s := by
  rw [exec_eq, exec_eq, withPrelude_withResponse (body_withResponse i q s)]

theorem refuseIllegal_withResponse (cmd : BitVec 8) (q : Option Response) (s : State) :
    refuseIllegal cmd (withResponse q s) = refuseIllegal cmd s :=
  withPrelude_withResponse rfl

theorem step_withResponse (q : Option Response) (s : State) : step (withResponse q s) = step s := by
  have accept (rest : List PortEvent) : acceptEvent rest (withResponse q s) = withResponse q (acceptEvent rest s) := rfl
  cases hp : s.pending with
  | nil => rw [step_of_idle hp, step_of_idle (s := withResponse q s) hp]; rfl
  | cons e rest =>
    cases e with
    | reset => rw [step_of_reset hp, step_of_reset (s := withResponse q s) hp]; rfl
    | command c =>
      cases hw : s.wasReset with
      | false => rw [step_of_never_reset hw hp, step_of_never_reset (s := withResponse q s) hw hp]
      | true =>
        rcases decode_cases c with ⟨m, _, hd⟩ | ⟨_, hd⟩
        · rw [step_of_decode_ok hw hp hd, step_of_decode_ok (s := withResponse q s) hw hp hd, accept, exec_withResponse]
        · rw [step_of_decode_error hw hp hd, step_of_decode_error (s := withResponse q s) hw hp hd, accept,
            refuseIllegal_withResponse]

/-! ### The generator registers, seen by the commands that do not use them (R20, R34) -/

/-- The same state with other values in LAST_TS, LAST_RND and RND_VALID. -/
def withGenerator (a : Millis) (b : Option Payload) (c : BitVec 1) (s : State) : State :=
  { s with lastTs := a, lastRnd := b, rndValid := c }

theorem afterTime_withGenerator (sel : BitVec 1) (a : Millis) (b : Option Payload) (c : BitVec 1) (s : State) :
    afterTime sel (withGenerator a b c s) = withGenerator a b c (afterTime sel s) := by
  unfold afterTime; split <;> rfl

theorem generatePlain_withGenerator (t a : Millis) (b : Option Payload) (c : BitVec 1) (s : State) :
    generatePlain t (withGenerator a b c s) = withGenerator a b c (generatePlain t s) := by
  have sample : entSample (withGenerator a b c s) = entSample s := rfl
  unfold generatePlain; rw [sample]; split <;> rfl

theorem body_withGenerator {i : Instr} (hm : mnemonicOf i ≠ .GENM) (hi : mnemonicOf i ≠ .INIT) (a : Millis)
    (b : Option Payload) (c : BitVec 1) (s : State) :
    body i (withGenerator a b c s) = withGenerator a b c (body i s) := by
  rcases isCodec_or_generator i with hc | ⟨sel, x, rfl⟩ | ⟨sel, x, rfl⟩ | ⟨its, irv, irnd, rfl⟩
  · obtain ⟨r, _, h⟩ := body_codec hc s.cfg
    rw [h s rfl, h (withGenerator a b c s) rfl]; rfl
  · simp only [body, afterTime_withGenerator, generatePlain_withGenerator]; rfl
  · exact absurd rfl hm
  · exact absurd rfl hi

theorem exec_withGenerator {i : Instr} (hm : mnemonicOf i ≠ .GENM) (hi : mnemonicOf i ≠ .INIT) (a : Millis)
    (b : Option Payload) (c : BitVec 1) (s : State) :
    exec i (withGenerator a b c s) = mapNext (withGenerator a b c) (exec i s) := by
  rcases bit_cases s.fatal with h | h
  · rw [exec_alive i s h, exec_alive i (withGenerator a b c s) h, body_withGenerator hm hi]; rfl
  · rw [exec_fatal i s h, exec_fatal i (withGenerator a b c s) h]; rfl

/-- What passes any values through unchanged writes none: take the values that stand there. -/
theorem exec_keeps_generator {i : Instr} {s t : State} (hm : mnemonicOf i ≠ .GENM) (hi : mnemonicOf i ≠ .INIT)
    (h : exec i s = .next t) : t.lastTs = s.lastTs ∧ t.lastRnd = s.lastRnd ∧ t.rndValid = s.rndValid := by
  have hpass : exec i s = mapNext (withGenerator s.lastTs s.lastRnd s.rndValid) (exec i s) :=
    exec_withGenerator hm hi s.lastTs s.lastRnd s.rndValid s
  rw [h] at hpass
  injection hpass with ht
  rw [ht]
  exact ⟨rfl, rfl, rfl⟩

/-! ### The frame of every command (10_state.md section 5) -/

@[simp] theorem generatePlain_wasReset (t : Millis) (s : State) : (generatePlain t s).wasReset = s.wasReset := by
  rcases generatePlain_cases t s with ⟨_, h⟩ | ⟨_, h⟩ <;> simp [h]

@[simp] theorem generatePlain_pending (t : Millis) (s : State) : (generatePlain t s).pending = s.pending := by
  rcases generatePlain_cases t s with ⟨_, h⟩ | ⟨_, h⟩ <;> simp [h]

theorem generatePlain_fatal_cases (t : Millis) (s : State) :
    (generatePlain t s).fatal = s.fatal ∨ (generatePlain t s).fatal = 1 := by
  rcases generatePlain_cases t s with ⟨_, h⟩ | ⟨_, h⟩ <;> simp [h]

@[simp] theorem generateMonotonic_wasReset (t : Millis) (s : State) : (generateMonotonic t s).wasReset = s.wasReset := by
  rcases generateMonotonic_cases t s with ⟨_, _, h⟩ | ⟨_, _, h⟩ | ⟨_, _, h⟩ | ⟨r, _, _, _, h⟩ | ⟨r, _, _, _, h⟩ <;> simp [h]

@[simp] theorem generateMonotonic_pending (t : Millis) (s : State) : (generateMonotonic t s).pending = s.pending := by
  rcases generateMonotonic_cases t s with ⟨_, _, h⟩ | ⟨_, _, h⟩ | ⟨_, _, h⟩ | ⟨r, _, _, _, h⟩ | ⟨r, _, _, _, h⟩ <;> simp [h]

theorem generateMonotonic_fatal_cases (t : Millis) (s : State) :
    (generateMonotonic t s).fatal = s.fatal ∨ (generateMonotonic t s).fatal = 1 := by
  rcases generateMonotonic_cases t s with ⟨_, _, h⟩ | ⟨_, _, h⟩ | ⟨_, _, h⟩ | ⟨r, _, _, _, h⟩ | ⟨r, _, _, _, h⟩ <;> simp [h]

/-- INIT's writes are to the generator registers alone. -/
theorem loadGenerator_eq_withGenerator (its : Millis) (irv : BitVec 1) (irnd : Payload) (s : State) :
    loadGenerator its irv irnd s = withGenerator its (if irv = 1 then some irnd else none) irv s := by
  rcases bit_cases irv with rfl | rfl <;> rfl

/-- No command's body writes the command port or the reset mark. -/
theorem body_keeps_port (i : Instr) (s : State) : (body i s).wasReset = s.wasReset ∧ (body i s).pending = s.pending := by
  rcases isCodec_or_generator i with hc | ⟨sel, x, rfl⟩ | ⟨sel, x, rfl⟩ | ⟨its, irv, irnd, rfl⟩
  · obtain ⟨r, _, h⟩ := body_codec hc s.cfg
    simp [h s rfl]
  · simp [body]
  · simp [body]
  · rw [body, loadGenerator_eq_withGenerator]; exact ⟨rfl, rfl⟩

/-- A body leaves FATAL alone, or is that of a generator and sets it. -/
theorem body_fatal_cases (i : Instr) (s : State) :
    (body i s).fatal = s.fatal ∨ ((mnemonicOf i = .GEN ∨ mnemonicOf i = .GENM) ∧ (body i s).fatal = 1) := by
  rcases isCodec_or_generator i with hc | ⟨sel, x, rfl⟩ | ⟨sel, x, rfl⟩ | ⟨its, irv, irnd, rfl⟩
  · obtain ⟨r, _, h⟩ := body_codec hc s.cfg
    simp [h s rfl]
  · simpa [body, mnemonicOf] using generatePlain_fatal_cases (selectedTime sel x s) (afterTime sel s)
  · simpa [body, mnemonicOf] using generateMonotonic_fatal_cases (selectedTime sel x s) (afterTime sel s)
  · rw [body, loadGenerator_eq_withGenerator]; exact .inl rfl

theorem exec_keeps_port {i : Instr} {s t : State} (h : exec i s = .next t) :
    t.wasReset = s.wasReset ∧ t.pending = s.pending := by
  rcases exec_cases i s t h with ⟨_, rfl⟩ | ⟨_, rfl⟩
  · exact ⟨rfl, rfl⟩
  · exact body_keeps_port i s

theorem exec_fatal_cases {i : Instr} {s t : State} (h : exec i s = .next t) :
    t.fatal = s.fatal ∨ ((mnemonicOf i = .GEN ∨ mnemonicOf i = .GENM) ∧ t.fatal = 1) := by
  rcases exec_cases i s t h with ⟨_, rfl⟩ | ⟨_, rfl⟩
  · exact .inl rfl
  · exact body_fatal_cases i s

/-! ### RND_VALID says whether LAST_RND holds a value (R21, R22) -/

/-- The invariant speaks of two registers only. -/
theorem tagAgrees_of_same {s t : State} (h : TagAgrees s) (hr : t.lastRnd = s.lastRnd) (hv : t.rndValid = s.rndValid) :
    TagAgrees t := by
  unfold TagAgrees; rwa [hr, hv]

theorem tagAgrees_of_held {s : State} {r : Payload} (hr : s.lastRnd = some r) (hv : s.rndValid = 1) : TagAgrees s := by
  simp [TagAgrees, hr, hv]

theorem tagAgrees_of_unset {s : State} (hr : s.lastRnd = none) (hv : s.rndValid = 0) : TagAgrees s := by
  simp [TagAgrees, hr, hv]

theorem tagAgrees_generateMonotonic (t : Millis) {s : State} (hs : TagAgrees s) : TagAgrees (generateMonotonic t s) := by
  rcases generateMonotonic_cases t s with ⟨_, _, h⟩ | ⟨_, _, h⟩ | ⟨_, _, h⟩ | ⟨r, _, _, _, h⟩ | ⟨r, _, _, _, h⟩ <;> rw [h]
  · exact tagAgrees_of_same hs rfl rfl
  · exact tagAgrees_of_held rfl rfl
  · exact tagAgrees_of_same hs rfl rfl
  · exact tagAgrees_of_same hs rfl rfl
  · exact tagAgrees_of_held rfl rfl

theorem tagAgrees_loadGenerator (its : Millis) (irv : BitVec 1) (irnd : Payload) (s : State) :
    TagAgrees (loadGenerator its irv irnd s) := by
  rcases bit_cases irv with rfl | rfl
  · exact tagAgrees_of_unset rfl rfl
  · exact tagAgrees_of_held rfl rfl

/-- Only GENM and INIT write the two registers, and each writes both. -/
theorem tagAgrees_exec {i : Instr} {s t : State} (hs : TagAgrees s) (h : exec i s = .next t) : TagAgrees t := by
  rcases exec_cases i s t h with ⟨_, rfl⟩ | ⟨_, rfl⟩
  · exact tagAgrees_of_same hs rfl rfl
  cases i with
  | genm sel x =>
    exact tagAgrees_generateMonotonic _ (tagAgrees_of_same hs (afterTime_lastRnd sel s) (afterTime_rndValid sel s))
  | init its irv irnd => exact tagAgrees_of_same (tagAgrees_loadGenerator its irv irnd s) rfl rfl
  | enc | encts | decg | dec | gen =>
    obtain ⟨_, hr, hv⟩ := exec_keeps_generator (by simp [mnemonicOf]) (by simp [mnemonicOf]) h
    exact tagAgrees_of_same hs hr hv

theorem tagAgrees_refuseIllegal (cmd : BitVec 8) {s : State} (hs : TagAgrees s) : TagAgrees (refuseIllegal cmd s) := by
  rcases withPrelude_cases (raise .illegal cmd) s with ⟨_, h⟩ | ⟨_, h⟩ <;> rw [refuseIllegal, h]
  · exact tagAgrees_of_same hs rfl rfl
  · exact tagAgrees_of_same hs rfl rfl

theorem tagAgrees_step {s t : State} (hs : TagAgrees s) (h : step s = .next t) : TagAgrees t := by
  have accept (rest : List PortEvent) : TagAgrees (acceptEvent rest s) := tagAgrees_of_same hs rfl rfl
  rcases step_cases s t h with ⟨_, rfl⟩ | ⟨rest, _, rfl⟩ | ⟨c, rest, i, _, _, _, he⟩ | ⟨c, rest, _, _, _, rfl⟩
  · exact tagAgrees_of_same hs rfl rfl
  · exact tagAgrees_of_unset rfl rfl
  · exact tagAgrees_exec (accept rest) he
  · exact tagAgrees_refuseIllegal c.cmd (accept rest)

/-! ### Port samples (R27, R28, R51) -/

/-- One clock sample was taken from `s` to `t` (log entry 3). -/
structure OneClk (s t : State) : Prop where
  samples : t.clkIn = s.clkIn.tail
  draws : t.clkDraws = s.clkDraws + 1

/-- No clock sample was taken. -/
structure NoClk (s t : State) : Prop where
  samples : t.clkIn = s.clkIn
  draws : t.clkDraws = s.clkDraws

/-- One entropy sample was taken. -/
structure OneEnt (s t : State) : Prop where
  samples : t.entIn = s.entIn.tail
  draws : t.entDraws = s.entDraws + 1

/-- No entropy sample was taken. -/
structure NoEnt (s t : State) : Prop where
  samples : t.entIn = s.entIn
  draws : t.entDraws = s.entDraws

theorem OneClk.trans_noClk {s u t : State} (h1 : OneClk s u) (h2 : NoClk u t) : OneClk s t :=
  ⟨h2.samples.trans h1.samples, h2.draws.trans h1.draws⟩

theorem NoClk.trans {s u t : State} (h1 : NoClk s u) (h2 : NoClk u t) : NoClk s t :=
  ⟨h2.samples.trans h1.samples, h2.draws.trans h1.draws⟩

theorem NoEnt.trans_oneEnt {s u t : State} (h1 : NoEnt s u) (h2 : OneEnt u t) : OneEnt s t :=
  ⟨h1.samples ▸ h2.samples, h1.draws ▸ h2.draws⟩

theorem NoEnt.trans {s u t : State} (h1 : NoEnt s u) (h2 : NoEnt u t) : NoEnt s t :=
  ⟨h2.samples.trans h1.samples, h2.draws.trans h1.draws⟩

theorem afterTime_zero_oneClk (s : State) : OneClk s (afterTime 0 s) := ⟨rfl, rfl⟩

theorem afterTime_one_noClk (s : State) : NoClk s (afterTime 1 s) := ⟨rfl, rfl⟩

theorem afterTime_noEnt (sel : BitVec 1) (s : State) : NoEnt s (afterTime sel s) :=
  ⟨afterTime_entIn sel s, afterTime_entDraws sel s⟩

theorem generatePlain_noClk (t : Millis) (s : State) : NoClk s (generatePlain t s) := by
  rcases generatePlain_cases t s with ⟨_, h⟩ | ⟨_, h⟩ <;> rw [h] <;> exact ⟨rfl, rfl⟩

theorem generatePlain_oneEnt (t : Millis) (s : State) : OneEnt s (generatePlain t s) := by
  rcases generatePlain_cases t s with ⟨_, h⟩ | ⟨_, h⟩ <;> rw [h] <;> exact ⟨rfl, rfl⟩

theorem generateMonotonic_noClk (t : Millis) (s : State) : NoClk s (generateMonotonic t s) := by
  rcases generateMonotonic_cases t s with ⟨_, _, h⟩ | ⟨_, _, h⟩ | ⟨_, _, h⟩ | ⟨r, _, _, _, h⟩ | ⟨r, _, _, _, h⟩ <;>
    rw [h] <;> exact ⟨rfl, rfl⟩

/-- A new millisecond takes one entropy sample, whether it is good or not (R101). -/
theorem newMillisecond_oneEnt (t : Millis) (s : State) : OneEnt s (newMillisecond t s) := by
  unfold newMillisecond; split <;> exact ⟨rfl, rfl⟩

/-- The same millisecond takes none (R101). -/
theorem sameMillisecond_noEnt (t : Millis) (s : State) : NoEnt s (sameMillisecond t s) := by
  unfold sameMillisecond
  cases heldRnd s with
  | none => exact ⟨rfl, rfl⟩
  | some r => dsimp only; split <;> exact ⟨rfl, rfl⟩

theorem generateMonotonic_oneEnt {t : Millis} {s : State} (ht : t ≠ s.lastTs) : OneEnt s (generateMonotonic t s) := by
  rw [generateMonotonic, if_pos ht]; exact newMillisecond_oneEnt t s

theorem generateMonotonic_noEnt {t : Millis} {s : State} (ht : t = s.lastTs) : NoEnt s (generateMonotonic t s) := by
  rw [generateMonotonic, if_neg (not_not.mpr ht)]; exact sameMillisecond_noEnt t s

/-- The commands that sample the clock: GEN and GENM with S = 0 (R51). -/
def SamplesClk (i : Instr) : Prop := ∃ x, i = .gen 0 x ∨ i = .genm 0 x

/-- The commands that sample the entropy port: GEN, and GENM on a new millisecond (R28). -/
def SamplesEnt (i : Instr) (s : State) : Prop :=
  ∃ sel x, i = .gen sel x ∨ (i = .genm sel x ∧ selectedTime sel x s ≠ s.lastTs)

theorem body_oneClk {i : Instr} (hi : SamplesClk i) (s : State) : OneClk s (body i s) := by
  obtain ⟨x, rfl | rfl⟩ := hi
  · exact (afterTime_zero_oneClk s).trans_noClk (generatePlain_noClk _ _)
  · exact (afterTime_zero_oneClk s).trans_noClk (generateMonotonic_noClk _ _)

theorem body_noClk {i : Instr} (hi : ¬ SamplesClk i) (s : State) : NoClk s (body i s) := by
  rcases isCodec_or_generator i with hc | ⟨sel, x, rfl⟩ | ⟨sel, x, rfl⟩ | ⟨its, irv, irnd, rfl⟩
  · obtain ⟨r, _, h⟩ := body_codec hc s.cfg
    rw [h s rfl]; exact ⟨rfl, rfl⟩
  · rcases bit_cases sel with rfl | rfl
    · exact absurd ⟨x, .inl rfl⟩ hi
    · exact (afterTime_one_noClk s).trans (generatePlain_noClk _ _)
  · rcases bit_cases sel with rfl | rfl
    · exact absurd ⟨x, .inr rfl⟩ hi
    · exact (afterTime_one_noClk s).trans (generateMonotonic_noClk _ _)
  · rw [body, loadGenerator_eq_withGenerator]; exact ⟨rfl, rfl⟩

theorem body_oneEnt {i : Instr} {s : State} (hi : SamplesEnt i s) : OneEnt s (body i s) := by
  obtain ⟨sel, x, rfl | ⟨rfl, ht⟩⟩ := hi
  · exact (afterTime_noEnt sel s).trans_oneEnt (generatePlain_oneEnt _ _)
  · exact (afterTime_noEnt sel s).trans_oneEnt (generateMonotonic_oneEnt (by rwa [afterTime_lastTs]))

theorem body_noEnt {i : Instr} {s : State} (hi : ¬ SamplesEnt i s) : NoEnt s (body i s) := by
  rcases isCodec_or_generator i with hc | ⟨sel, x, rfl⟩ | ⟨sel, x, rfl⟩ | ⟨its, irv, irnd, rfl⟩
  · obtain ⟨r, _, h⟩ := body_codec hc s.cfg
    rw [h s rfl]; exact ⟨rfl, rfl⟩
  · exact absurd ⟨sel, x, .inl rfl⟩ hi
  · have ht : selectedTime sel x s = s.lastTs := by_contra fun hne => hi ⟨sel, x, .inr ⟨rfl, hne⟩⟩
    exact (afterTime_noEnt sel s).trans (generateMonotonic_noEnt (by rwa [afterTime_lastTs]))
  · rw [body, loadGenerator_eq_withGenerator]; exact ⟨rfl, rfl⟩

/-- A refused command samples neither port (60_exceptions.md R124), and one that is not samples the clock as its body does. -/
theorem exec_noClk {i : Instr} {s t : State} (h : exec i s = .next t) (hi : s.fatal = 1 ∨ ¬ SamplesClk i) : NoClk s t := by
  rcases exec_cases i s t h with ⟨_, rfl⟩ | ⟨hs, rfl⟩
  · exact ⟨rfl, rfl⟩
  · exact body_noClk (hi.resolve_left (by simp [hs])) s

theorem exec_noEnt {i : Instr} {s t : State} (h : exec i s = .next t) (hi : s.fatal = 1 ∨ ¬ SamplesEnt i s) :
    NoEnt s t := by
  rcases exec_cases i s t h with ⟨_, rfl⟩ | ⟨hs, rfl⟩
  · exact ⟨rfl, rfl⟩
  · exact body_noEnt (hi.resolve_left (by simp [hs]))

theorem exec_oneClk {i : Instr} {s t : State} (h : exec i s = .next t) (hs : s.fatal = 0) (hi : SamplesClk i) :
    OneClk s t := by
  rw [exec_alive i s hs] at h
  cases h
  exact body_oneClk hi s

theorem exec_oneEnt {i : Instr} {s t : State} (h : exec i s = .next t) (hs : s.fatal = 0) (hi : SamplesEnt i s) :
    OneEnt s t := by
  rw [exec_alive i s hs] at h
  cases h
  exact body_oneEnt hi

/-! ### The statements -/

/-- Settles O43: each operation that writes RND_VALID or LAST_RND writes both, so every step keeps their agreement. -/
theorem tagAgreementKept : Obligations.TagAgreementKept :=
  fun _ _ hs h => tagAgrees_step hs h

/-- Settles O12: at the first digit where the values differ the greater value has the greater character. -/
theorem orderLaw : Obligations.OrderLaw := by
  intro v1 v2 s h0 hlt h2 hs
  obtain ⟨r1, he1, hr1⟩ := exec_enc_in_range v1 s h0 (hlt.trans h2) hs
  obtain ⟨r2, he2, hr2⟩ := exec_enc_in_range v2 s (h0.trans hlt.le) h2 hs
  exact ⟨r1, r2, he1, he2, codeLess_of_emitsValue hr1 hr2 (by omega)⟩

/-- Settles O29: a command samples as its body does, and a refused one not at all. -/
theorem portSampling : Obligations.PortSampling := by
  intro i s t h
  refine ⟨fun hs hi => ?_, fun hi => ?_, fun hs hi => ?_, fun hi => ?_⟩
  · have hclk := exec_oneClk h hs hi
    exact ⟨hclk.samples, hclk.draws⟩
  · have hclk := exec_noClk h <| hi.imp_right fun hno ⟨x, hx⟩ => hx.elim (hno x).1 (hno x).2
    exact ⟨hclk.samples, hclk.draws⟩
  · have hent := exec_oneEnt h hs hi
    exact ⟨hent.samples, hent.draws⟩
  · have hent := exec_noEnt h <| hi.imp_right fun hno ⟨sel, x, hx⟩ =>
      hx.elim (hno sel x).1 fun ⟨hg, ht⟩ => (hno sel x).2.elim (· hg) ht
    exact ⟨hent.samples, hent.draws⟩

/-- Settles O37: every response is a report, an emission or a decoded value, and each of these is well formed. -/
theorem responsesAreWellFormed : Obligations.ResponsesAreWellFormed := by
  intro s t r h hr
  obtain ⟨herror, hinfo, hnsym, hrest, hsymbols, hvalue, htime⟩ := step_wellFormed h hr
  exact ⟨herror, hinfo, hnsym, hrest, hsymbols, hvalue, htime⟩

/-- Settles O38: every operation overwrites the response port without reading it. -/
theorem previousResponseIsUnread : Obligations.PreviousResponseIsUnread :=
  fun s q => step_withResponse q s

/-- Settles O39: the body of every such command commutes with a change of the three registers. -/
theorem generatorRegistersUntouched : Obligations.GeneratorRegistersUntouched :=
  fun _ s a b c hm hi => exec_withGenerator hm hi a b c s

/-- Settles O41: the frames of the commands, put together. -/
theorem registerWriters : Obligations.RegisterWriters := by
  intro i s t h
  obtain ⟨hwasReset, hpending⟩ := exec_keeps_port h
  have hfatal : t.fatal ≠ s.fatal → (mnemonicOf i = .GEN ∨ mnemonicOf i = .GENM) ∧ t.fatal = 1 :=
    (exec_fatal_cases h).resolve_left
  by_cases hi : mnemonicOf i = .GENM ∨ mnemonicOf i = .INIT
  · exact ⟨fun _ => hi, fun _ => hi, fun _ => hi, hfatal, exec_keeps_cfg h, hwasReset, hpending⟩
  · obtain ⟨hgenm, hinit⟩ := not_or.mp hi
    obtain ⟨hts, hrnd, hvalid⟩ := exec_keeps_generator hgenm hinit h
    exact ⟨absurd hts, absurd hrnd, absurd hvalid, hfatal, exec_keeps_cfg h, hwasReset, hpending⟩

/-- Settles O19: the inverse map is the search for the accepted index, and no accepted code is one of those listed. -/
theorem inverseAlphabet : Obligations.InverseAlphabet :=
  ⟨unsym_eq_some_iff, unsym_of_outsideAlphabet, fun c hc _ => unsym_lowerCase_of_no_fold c hc⟩

/-- Settles O20: the ROM's own order. -/
theorem alphabetIncreases : Obligations.AlphabetIncreases := sym_strictMono

end Sys2Proof.Machine
end

section
/-!
PROOFS. The memory rules of 20_memory.md: packed fields (R42 to R44) with what their slices give for the encoder (40_encode.md
R62), the codec's freedom from side effects (R47), and the order of acceptance at the port (R48).
-/

namespace Sys2Proof.Machine

open Sys2Proof.Safety

/-! ### Packed fields (R44) -/

/-- Digit `i` of a positional value, `w` bits per digit and the first the most significant, is the `i`-th element. -/
theorem digitsFrom_digit (w : Nat) (xs : List (BitVec w)) (i : Nat) (hi : i < xs.length) :
    digitsFrom w 0 xs / 2 ^ (w * (xs.length - 1 - i)) % 2 ^ w = xs[i].toNat := by
  have hsplit : digitsFrom w 0 xs =
      digitsFrom w (digitsFrom w 0 (xs.take i) * 2 ^ w + xs[i].toNat) (xs.drop (i + 1)) := by
    rw [← digitsFrom_cons, List.getElem_cons_drop, ← digitsFrom_append, List.take_append_drop]
  have hlow := digitsFrom_lt w (xs.drop (i + 1))
  have hlen : (xs.drop (i + 1)).length = xs.length - 1 - i := by rw [List.length_drop]; omega
  rw [hlen] at hlow
  rw [hsplit, digitsFrom_eq, hlen, Nat.mul_comm, Nat.mul_add_div (Nat.two_pow_pos _), Nat.div_eq_of_lt hlow, Nat.add_zero,
    Nat.mul_add_mod_self_right, Nat.mod_eq_of_lt xs[i].isLt]

/-- Digit `i` of a packed field is its `i`-th element. -/
theorem packFields_digit (w n : Nat) (xs : List (BitVec w)) (hn : w * xs.length ≤ n) (i : Nat) (hi : i < xs.length) :
    (packFields w n xs).toNat / 2 ^ (w * (xs.length - 1 - i)) % 2 ^ w = xs[i].toNat := by
  rw [toNat_packFields w n xs hn, digitsFrom_digit w xs i hi]

theorem packGroups_digit (g : Vector Group 26) (i : Fin 26) :
    (packGroups g).toNat / 2 ^ (125 - 5 * i.val) % 32 = g[i].toNat := by
  simpa [packGroups, Nat.mul_sub] using packFields_digit 5 130 g.toList (by simp) i (by simp)

theorem packChars_digit (chars : Vector Code 26) (i : Fin 26) :
    (packChars chars).toNat / 2 ^ (200 - 8 * i.val) % 256 = chars[i].toNat := by
  simpa [packChars, Nat.mul_sub] using packFields_digit 8 208 chars.toList (by simp) i (by simp)

/-- A padded value is determined by its 26 groups (R42): two different values differ in some digit. -/
theorem eq_of_leadingPart_mod_eq {a b : Nat} (ha : a < 2 ^ 130) (hb : b < 2 ^ 130)
    (h : ∀ i, leadingPart a i % 32 = leadingPart b i % 32) : a = b := by
  rcases Nat.lt_trichotomy a b with hlt | heq | hgt
  · obtain ⟨i, _, hi⟩ := exists_first_smaller_digit a b hlt hb
    exact absurd (h i) hi.ne
  · exact heq
  · obtain ⟨i, _, hi⟩ := exists_first_smaller_digit b a hgt ha
    exact absurd (h i) hi.ne'

/-- The groups of an emitted value, packed, are the value again. -/
theorem packGroups_of_emitsValue {r : Response} {v : Nat} (h : EmitsValue r v) : (packGroups r.grp).toNat = v := by
  have hv : v < 2 ^ 130 := by have := r.val.isLt; rw [h.val] at this; omega
  exact eq_of_leadingPart_mod_eq (packGroups r.grp).isLt hv fun i => (packGroups_digit r.grp i).trans (h.grp i)

/-! ### The slices of the timestamp and of the randomness (R43; 40_encode.md R62) -/

/-- ENCTS of a timestamp in range, while the block is not fatal (40_encode.md R61). -/
theorem exec_encts_in_range (t : Int) (s : State) (h0 : 0 ≤ t) (h1 : t < 2 ^ 48) (hs : s.fatal = 0) :
    ∃ r, exec (.encts t) s = .next { s with response := some r } ∧ EmitsTime r t.toNat := by
  have hbody : body (.encts t) s = respond (timeEmission (BitVec.ofNat 48 t.toNat)) s :=
    if_neg (by unfold maxEpochTime; omega)
  refine ⟨_, (exec_alive _ _ hs).trans (congrArg _ hbody), ?_⟩
  have ht : (BitVec.ofNat 48 t.toNat).toNat = t.toNat := by rw [BitVec.toNat_ofNat]; omega
  simpa only [ht] using timeEmission_emits (BitVec.ofNat 48 t.toNat)

/-- The first 10 groups of a value are those of its timestamp field. -/
theorem grp_emitsValue_eq_emitsTime {r q : Response} {v : Nat} (hr : EmitsValue r v) (hq : EmitsTime q (v / 2 ^ 80))
    (i : Fin 26) (hi : i.val < 10) : r.grp[i] = q.grp[i] := by
  apply BitVec.eq_of_toNat_eq
  rw [hr.grp, hq.grp i hi, Nat.div_div_eq_div_mul, ← Nat.pow_add, show 80 + (45 - 5 * i.val) = 125 - 5 * i.val by omega]

/-- A five-bit slice that lies in the low 80 bits of a value does not see the others. -/
theorem slice_mod_two_pow_80 (v k : Nat) (hk : k + 5 ≤ 80) : v % 2 ^ 80 / 2 ^ k % 32 = v / 2 ^ k % 32 := by
  have hdvd : 32 ∣ 2 ^ (80 - k) := Nat.pow_dvd_pow 2 (show 5 ≤ 80 - k by omega)
  rw [show 2 ^ 80 = 2 ^ k * 2 ^ (80 - k) by rw [← Nat.pow_add, Nat.add_sub_cancel' (by omega)],
    Nat.mod_mul_right_div_self, Nat.mod_mod_of_dvd _ hdvd]

/-- The last 16 groups of a value are a function of its low 80 bits. -/
theorem grp_eq_of_mod_eq {r r' : Response} {v v' : Nat} (hr : EmitsValue r v) (hr' : EmitsValue r' v')
    (hlow : v % 2 ^ 80 = v' % 2 ^ 80) (i : Fin 26) (hi : 10 ≤ i.val) : r.grp[i] = r'.grp[i] := by
  have hk : 125 - 5 * i.val + 5 ≤ 80 := by omega
  apply BitVec.eq_of_toNat_eq
  rw [hr.grp, hr'.grp, ← slice_mod_two_pow_80 v _ hk, ← slice_mod_two_pow_80 v' _ hk, hlow]

/-! ### The codec has no side effect (R47) -/

/-- A codec command, refused or not, responds and does nothing else. -/
theorem exec_codec {i : Instr} {s t : State} (hi : IsCodec i) (h : exec i s = .next t) : ∃ r, t = respond r s := by
  rcases exec_cases i s t h with ⟨_, ht⟩ | ⟨_, ht⟩
  · exact ⟨_, ht⟩
  · obtain ⟨r, _, hbody⟩ := body_codec hi s.cfg
    exact ⟨r, ht.trans (hbody s rfl)⟩

/-! ### The order of acceptance (R48)

No operation of a command reads the command port or writes it, so each commutes with `acceptEvent rest`, which sets what the
port holds. -/

@[simp] theorem refuseIllegal_pending (cmd : BitVec 8) (s : State) : (refuseIllegal cmd s).pending = s.pending := by
  rcases withPrelude_cases (raise .illegal cmd) s with ⟨_, h⟩ | ⟨_, h⟩ <;> simp [refuseIllegal, h]

/-- Every step takes the first event from the port, if there is one, and leaves the others. -/
theorem step_pending {s t : State} (h : step s = .next t) : t.pending = s.pending.tail := by
  rcases step_cases s t h with ⟨hp, rfl⟩ | ⟨rest, hp, rfl⟩ | ⟨c, rest, i, hp, _, _, he⟩ | ⟨c, rest, hp, _, _, rfl⟩
  · simp [hp]
  · simp [hp]
  · simpa [hp] using (exec_keeps_port he).2
  · simp [hp]

theorem afterTime_acceptEvent (sel : BitVec 1) (rest : List PortEvent) (s : State) :
    afterTime sel (acceptEvent rest s) = acceptEvent rest (afterTime sel s) := by
  unfold afterTime; split <;> rfl

theorem generatePlain_acceptEvent (t : Millis) (rest : List PortEvent) (s : State) :
    generatePlain t (acceptEvent rest s) = acceptEvent rest (generatePlain t s) := by
  unfold generatePlain; rw [entSample_acceptEvent]; split <;> rfl

theorem newMillisecond_acceptEvent (t : Millis) (rest : List PortEvent) (s : State) :
    newMillisecond t (acceptEvent rest s) = acceptEvent rest (newMillisecond t s) := by
  unfold newMillisecond; rw [entSample_acceptEvent]; split <;> rfl

theorem sameMillisecond_acceptEvent (t : Millis) (rest : List PortEvent) (s : State) :
    sameMillisecond t (acceptEvent rest s) = acceptEvent rest (sameMillisecond t s) := by
  have held : heldRnd (acceptEvent rest s) = heldRnd s := rfl
  unfold sameMillisecond
  rw [held]
  cases heldRnd s with
  | none => rfl
  | some r => dsimp only; split <;> rfl

theorem generateMonotonic_acceptEvent (t : Millis) (rest : List PortEvent) (s : State) :
    generateMonotonic t (acceptEvent rest s) = acceptEvent rest (generateMonotonic t s) := by
  unfold generateMonotonic
  rw [acceptEvent_lastTs]
  split
  · exact newMillisecond_acceptEvent t rest s
  · exact sameMillisecond_acceptEvent t rest s

/-- The body of a command does the same whatever the command port holds, and leaves that there. -/
theorem body_acceptEvent (i : Instr) (rest : List PortEvent) (s : State) :
    body i (acceptEvent rest s) = acceptEvent rest (body i s) := by
  rcases isCodec_or_generator i with hc | ⟨sel, x, rfl⟩ | ⟨sel, x, rfl⟩ | ⟨its, irv, irnd, rfl⟩
  · obtain ⟨r, _, h⟩ := body_codec hc s.cfg
    rw [h s rfl, h (acceptEvent rest s) rfl]; rfl
  · simp only [body, afterTime_acceptEvent, generatePlain_acceptEvent]; rfl
  · simp only [body, afterTime_acceptEvent, generateMonotonic_acceptEvent]; rfl
  · simp only [body, loadGenerator_eq_withGenerator]; rfl

/-- The prelude reads FATAL alone. -/
theorem withPrelude_acceptEvent {f : State → State} {rest : List PortEvent} {s : State}
    (h : f (acceptEvent rest s) = acceptEvent rest (f s)) :
    withPrelude f (acceptEvent rest s) = acceptEvent rest (withPrelude f s) := by
  unfold withPrelude; rw [h, acceptEvent_fatal]; split <;> rfl

theorem exec_acceptEvent (i : Instr) (rest : List PortEvent) (s : State) :
    exec i (acceptEvent rest s) = mapNext (acceptEvent rest) (exec i s) := by
  rw [exec_eq, exec_eq, withPrelude_acceptEvent (body_acceptEvent i rest s)]; rfl

/-- What a step does with the event in front is the same whatever stands behind it, and that stays held. -/
theorem step_acceptEvent_cons (e : PortEvent) (rest : List PortEvent) (s : State) :
    step (acceptEvent (e :: rest) s) = mapNext (acceptEvent rest) (step (acceptEvent [e] s)) := by
  have behind (held : List PortEvent) : (acceptEvent (e :: held) s).pending = e :: held := rfl
  have mark (held : List PortEvent) : (acceptEvent (e :: held) s).wasReset = s.wasReset := rfl
  cases e with
  | reset => rw [step_of_reset (behind rest), step_of_reset (behind [])]; rfl
  | command c =>
    cases hw : s.wasReset with
    | false =>
      rw [hw] at mark
      rw [step_of_never_reset (mark rest) (behind rest), step_of_never_reset (mark []) (behind [])]; rfl
    | true =>
      rw [hw] at mark
      rcases decode_cases c with ⟨m, _, hd⟩ | ⟨_, hd⟩
      · rw [step_of_decode_ok (mark rest) (behind rest) hd, step_of_decode_ok (mark []) (behind []) hd, ← exec_acceptEvent]; rfl
      · rw [step_of_decode_error (mark rest) (behind rest) hd, step_of_decode_error (mark []) (behind []) hd]
        exact congrArg _ (withPrelude_acceptEvent (s := acceptEvent [] s) rfl)

/-! ### The statements -/

/-- Settles O8: a packed field is the positional value of its elements, and a value is determined by its digits. -/
theorem fieldPacking : Obligations.FieldPacking :=
  ⟨packGroups_digit, packChars_digit, fun x => packGroups_of_emitsValue (emission_emits x)⟩

/-- Settles O11: the first 10 slices lie in the timestamp field and the other 16 in the low 80 bits; the characters are those of
the groups. -/
theorem prefixLaw : Obligations.PrefixLaw := by
  intro v v' s h0 h1 h0' h1' hs
  obtain ⟨r, he, hr⟩ := exec_enc_in_range v s h0 h1 hs
  obtain ⟨r', he', hr'⟩ := exec_enc_in_range v' s h0' h1' hs
  obtain ⟨q, heq, hq⟩ := exec_encts_in_range (v / 2 ^ 80) s (by omega) (by omega) hs
  have hts : (v / 2 ^ 80).toNat = v.toNat / 2 ^ 80 := by omega
  rw [hts] at hq
  refine ⟨r, r', q, he, he', heq, fun i hi => ?_, fun hlow i hi => ?_⟩
  · have hgrp := grp_emitsValue_eq_emitsTime hr hq i hi
    exact ⟨hgrp, by rw [hr.chr, hq.chr i hi, hgrp]⟩
  · have hgrp := grp_eq_of_mod_eq hr hr' (by omega) i hi
    exact ⟨hgrp, by rw [hr.chr, hr'.chr, hgrp]⟩

/-- Settles O40: the next state differs in the response alone, which no command reads. -/
theorem codecHasNoSideEffect : Obligations.CodecHasNoSideEffect := by
  intro i s t hi h
  obtain ⟨r, rfl⟩ := exec_codec hi h
  have hrepeat : exec i (respond r s) = exec i s := exec_withResponse i (some r) s
  exact ⟨⟨rfl, rfl, rfl, rfl⟩, ⟨rfl, rfl, rfl, rfl⟩, rfl, rfl, rfl, hrepeat.trans h⟩

/-- Settles O52: a step takes the first event, and commutes with a change of those behind it. -/
theorem acceptanceOrder : Obligations.AcceptanceOrder :=
  ⟨fun _ _ h => step_pending h, fun s e rest => step_acceptEvent_cons e rest s⟩

end Sys2Proof.Machine
end

section
/-!
PROOFS. The encoding of 30_encoding.md: the opcode map (R50 to R55), the operand lines with the host's adapter (R52, R53;
20_memory.md R44), the round trips between instructions and port lines, illegal words (R55) and the pseudo-instructions (R58).
-/

namespace Sys2Proof.Machine

open Sys2Proof.Safety

/-! ### The opcode map (R54, R55) -/

/-- The map reads a row exactly from the words that match it under its mask. -/
theorem opcodeOf_eq_some_iff (cmd : BitVec 8) (m : Mnemonic) :
    opcodeOf cmd = some m ↔ cmd &&& tableMask m = tableMatch m := by
  cases m <;> revert cmd <;> decide +kernel

/-- The map reads a row from the nine legal words and from no other. -/
theorem opcodeOf_isSome_iff : ∀ cmd : BitVec 8, (opcodeOf cmd).isSome ↔ cmd ∈ legalWords := by decide +kernel

/-- A legal word is `{000, S, OP}` of its row (R50). -/
theorem commandWord_of_opcodeOf :
    ∀ cmd : BitVec 8, ∀ m ∈ opcodeOf cmd, commandWord (opcodeNumber m) (selField cmd) = cmd := by decide +kernel

/-- Outside GEN and GENM a legal word has S = 0 (R51). -/
theorem selField_of_opcodeOf :
    ∀ cmd : BitVec 8, ∀ m ∈ opcodeOf cmd, m ≠ .GEN → m ≠ .GENM → selField cmd = 0 := by decide +kernel

theorem selField_commandWord : ∀ (op : BitVec 4) (sel : BitVec 1), selField (commandWord op sel) = sel := by decide +kernel

/-- The word an instruction is presented with selects the instruction's own row. -/
theorem opcodeOf_encode (i : Instr) : opcodeOf (encode i).cmd = some (mnemonicOf i) := by
  cases i with
  | enc v => exact (Laws.Opcode.enc v).2
  | encts t => exact (Laws.Opcode.encts t).2
  | decg groups => exact (Laws.Opcode.decg groups).2
  | dec len chars => exact (Laws.Opcode.dec len chars).2
  | gen sel tseed => exact (Laws.Opcode.gen sel tseed).2
  | genm sel tseed => exact (Laws.Opcode.genm sel tseed).2
  | init its irv irnd => exact (Laws.Opcode.init its irv irnd).2

/-! ### The decoder, by the row the word selects -/

@[simp] theorem mnemonicOf_operandsOf (m : Mnemonic) (c : Command) : mnemonicOf (operandsOf m c) = m := by
  cases m <;> rfl

theorem decode_of_opcodeOf {c : Command} {m : Mnemonic} (h : opcodeOf c.cmd = some m) : decode c = .ok (operandsOf m c) := by
  simp only [decode, h]

/-- What a decoded command is: the operands of the row its word selects. -/
theorem decode_eq_ok {c : Command} {i : Instr} (h : decode c = .ok i) :
    ∃ m, opcodeOf c.cmd = some m ∧ i = operandsOf m c := by
  rcases decode_cases c with ⟨m, hm, hd⟩ | ⟨_, hd⟩
  · exact ⟨m, hm, Except.ok.inj (h.symm.trans hd)⟩
  · exact nomatch h.symm.trans hd

theorem decode_row_iff (c : Command) (m : Mnemonic) :
    (∃ i, decode c = .ok i ∧ mnemonicOf i = m) ↔ opcodeOf c.cmd = some m := by
  constructor
  · rintro ⟨i, hd, rfl⟩
    obtain ⟨m, hm, rfl⟩ := decode_eq_ok hd
    rwa [mnemonicOf_operandsOf]
  · exact fun hm => ⟨_, decode_of_opcodeOf hm, mnemonicOf_operandsOf m c⟩

theorem decode_ok_iff_legal (c : Command) : (∃ i, decode c = .ok i) ↔ c.cmd ∈ legalWords := by
  rw [← opcodeOf_isSome_iff, Option.isSome_iff_exists]
  exact ⟨fun ⟨_, hd⟩ => (decode_eq_ok hd).imp fun _ h => h.1, fun ⟨_, hm⟩ => ⟨_, decode_of_opcodeOf hm⟩⟩

theorem decode_of_not_legal {c : Command} (h : c.cmd ∉ legalWords) : decode c = .error (.illegal c.cmd) := by
  rcases decode_cases c with ⟨m, _, hd⟩ | ⟨_, hd⟩
  · exact absurd ((decode_ok_iff_legal c).1 ⟨_, hd⟩) h
  · exact hd

/-! ### The integer operands (R53) -/

/-- The integer the block sees for `v`: `v` itself in range, the one out-of-range integer otherwise (log entry 6). -/
def portValue (bound : Nat) (v : Int) : Int := if v < 0 ∨ v ≥ bound then outOfRangeInt else v

theorem portValue_cases (bound : Nat) (v : Int) :
    ((v < 0 ∨ (bound : Int) ≤ v) ∧ portValue bound v = outOfRangeInt) ∨
    ((0 ≤ v ∧ v < bound) ∧ portValue bound v = v) := by
  unfold portValue
  split
  · exact .inl ⟨by assumption, rfl⟩
  · exact .inr ⟨by omega, rfl⟩

theorem portValue_of_portInt {bound : Nat} {v : Int} (h : portInt bound v = true) : portValue bound v = v := by
  rcases portValue_cases bound v with ⟨hout, hv⟩ | ⟨_, hv⟩
  · have hin : ¬ (0 ≤ v ∧ v < bound) := by omega
    simp only [portInt, Bool.or_eq_true, Bool.and_eq_true, decide_eq_true_eq, beq_iff_eq] at h
    exact hv.trans (h.resolve_left hin).symm
  · exact hv

theorem oorFlag_eq_one_iff (bound : Nat) (v : Int) : oorFlag bound v = 1 ↔ v < 0 ∨ (bound : Int) ≤ v := by
  by_cases h : v < 0 ∨ v ≥ bound
  · exact iff_of_true (if_pos h) h
  · exact iff_of_false (by rw [oorFlag, if_neg h]; decide) h

/-- With the flag at 0 the word is the integer. -/
theorem toNat_oorWord {n bound : Nat} (hb : bound ≤ 2 ^ n) {v : Int} (h : oorFlag bound v = 0) :
    ((oorWord n bound v).toNat : Int) = v := by
  have hin : ¬ (v < 0 ∨ v ≥ bound) := fun hout => by simp [(oorFlag_eq_one_iff bound v).2 hout] at h
  have hlt : v.toNat < 2 ^ n := by omega
  rw [oorWord, if_neg hin, BitVec.toNat_ofNat, Nat.mod_eq_of_lt hlt]
  omega

theorem portOperand_zero (w : BitVec n) : portOperand 0 w = w.toNat := rfl

theorem portOperand_one (w : BitVec n) : portOperand 1 w = outOfRangeInt := rfl

/-- What the adapter presents for `v` is read as `portValue bound v`. -/
theorem portOperand_adapter {n bound : Nat} (hb : bound ≤ 2 ^ n) (v : Int) :
    portOperand (oorFlag bound v) (oorWord n bound v) = portValue bound v := by
  rcases portValue_cases bound v with ⟨hout, hv⟩ | ⟨hin, hv⟩
  · rw [(oorFlag_eq_one_iff bound v).2 hout, portOperand_one, hv]
  · have hflag : oorFlag bound v = 0 :=
      (bit_cases _).resolve_right fun h => by have := (oorFlag_eq_one_iff bound v).1 h; omega
    rw [hv, hflag, portOperand_zero, toNat_oorWord hb hflag]

/-- A word as wide as the range is an integer in range. -/
theorem toNat_in_range {n bound : Nat} (hb : 2 ^ n ≤ bound) (w : BitVec n) :
    ¬ ((w.toNat : Int) < 0 ∨ (w.toNat : Int) ≥ bound) := by
  have := w.isLt
  omega

/-- The flag of the integer read behind a flag is that flag. -/
theorem oorFlag_portOperand {n bound : Nat} (hb : 2 ^ n ≤ bound) (oor : BitVec 1) (w : BitVec n) :
    oorFlag bound (portOperand oor w) = oor := by
  rcases bit_cases oor with rfl | rfl
  · exact if_neg (toNat_in_range hb w)
  · rfl

/-- The word of the integer read behind the flag 0 is that word. -/
theorem oorWord_portOperand_zero {n bound : Nat} (hb : 2 ^ n ≤ bound) (w : BitVec n) :
    oorWord n bound (portOperand 0 w) = w := by
  rw [portOperand_zero, oorWord, if_neg (toNat_in_range hb w), Int.toNat_natCast, BitVec.ofNat_toNat, BitVec.setWidth_eq]

/-! ### The length, the groups and the characters (R44, R52) -/

theorem toNat_saturatedLen (len : Nat) : (saturatedLen len).toNat = min len 0xFFFF := by
  rw [saturatedLen, BitVec.toNat_ofNat]
  omega

theorem saturatedLen_toNat (w : BitVec 16) : saturatedLen w.toNat = w := by
  apply BitVec.eq_of_toNat_eq
  rw [toNat_saturatedLen]
  have := w.isLt
  omega

theorem unpackGroups_packGroups (g : Vector Group 26) : unpackGroups (packGroups g) = g := by
  refine Vector.ext fun i hi => BitVec.eq_of_toNat_eq ?_
  simpa [unpackGroups, Nat.shiftRight_eq_div_pow] using packGroups_digit g ⟨i, hi⟩

theorem unpackChars_packChars (chars : Vector Code 26) : unpackChars (packChars chars) = chars := by
  refine Vector.ext fun i hi => BitVec.eq_of_toNat_eq ?_
  simpa [unpackChars, Nat.shiftRight_eq_div_pow] using packChars_digit chars ⟨i, hi⟩

/-- A number of `k` digits of `w` bits is determined by its digits. -/
theorem eq_of_digits_eq (w k : Nat) {a b : Nat} (ha : a < 2 ^ (w * k)) (hb : b < 2 ^ (w * k))
    (h : ∀ j < k, a / 2 ^ (w * j) % 2 ^ w = b / 2 ^ (w * j) % 2 ^ w) : a = b := by
  induction k generalizing a b with
  | zero => simp at ha hb; omega
  | succ k ih =>
    have hlow : a % 2 ^ w = b % 2 ^ w := by simpa using h 0 (by omega)
    have hhigh : a / 2 ^ w = b / 2 ^ w := by
      rw [Nat.mul_succ, Nat.pow_add] at ha hb
      refine ih (Nat.div_lt_of_lt_mul (by rwa [Nat.mul_comm])) (Nat.div_lt_of_lt_mul (by rwa [Nat.mul_comm])) fun j hj => ?_
      simpa [Nat.div_div_eq_div_mul, ← Nat.pow_add, Nat.mul_succ, Nat.add_comm] using h (j + 1) (by omega)
    rw [← Nat.div_add_mod a (2 ^ w), hhigh, hlow, Nat.div_add_mod]

/-- Packing the slices of a field gives the field back. -/
theorem packFields_of_slices (w k : Nat) (v : BitVec (w * k)) (xs : List (BitVec w)) (hk : xs.length = k)
    (hxs : ∀ i (hi : i < xs.length), xs[i] = v.extractLsb' (w * (k - 1 - i)) w) : packFields w (w * k) xs = v := by
  apply BitVec.eq_of_toNat_eq
  refine eq_of_digits_eq w k (packFields w (w * k) xs).isLt v.isLt fun j hj => ?_
  have hdigit := packFields_digit w (w * k) xs (by rw [hk]) (k - 1 - j) (by omega)
  rw [hxs, toNat_slice, hk] at hdigit
  rwa [show k - 1 - (k - 1 - j) = j by omega] at hdigit

theorem packGroups_unpackGroups (grpv : BitVec 130) : packGroups (unpackGroups grpv) = grpv :=
  packFields_of_slices 5 26 grpv _ (by simp) fun i hi => by simp [unpackGroups, Nat.mul_sub]

theorem packChars_unpackChars (chrv : BitVec 208) : packChars (unpackChars chrv) = chrv :=
  packFields_of_slices 8 26 chrv _ (by simp) fun i hi => by simp [unpackChars, Nat.mul_sub]

/-! ### From an instruction to the port and back -/

/-- The well-formed instruction that stands at the port for `i` (R52, R53): an integer out of range is the one out-of-range
integer, and a length is saturated. -/
def presented : Instr → Instr
  | .enc v => .enc (portValue ulidBound v)
  | .encts t => .encts (portValue (maxEpochTime + 1) t)
  | .decg groups => .decg groups
  | .dec len chars => .dec (min len 0xFFFF) chars
  | .gen sel tseed => .gen sel tseed
  | .genm sel tseed => .genm sel tseed
  | .init its irv irnd => .init its irv irnd

/-- The operand lines of an instruction carry the instruction that stands at the port for it. -/
theorem operandsOf_encode (i : Instr) : operandsOf (mnemonicOf i) (encode i) = presented i := by
  cases i with
  | enc v => exact congrArg Instr.enc (portOperand_adapter (by decide) v)
  | encts t => exact congrArg Instr.encts (portOperand_adapter (by decide) t)
  | decg groups => exact congrArg Instr.decg (unpackGroups_packGroups groups)
  | dec len chars => exact congrArg₂ Instr.dec (toNat_saturatedLen len) (unpackChars_packChars chars)
  | gen sel tseed => exact congrArg (Instr.gen · tseed) (selField_commandWord _ sel)
  | genm sel tseed => exact congrArg (Instr.genm · tseed) (selField_commandWord _ sel)
  | init its irv irnd => rfl

theorem decode_encode (i : Instr) : decode (encode i) = .ok (presented i) := by
  rw [decode_of_opcodeOf (opcodeOf_encode i), operandsOf_encode]

theorem presented_of_wellFormed {i : Instr} (h : i.wellFormed = true) : presented i = i := by
  cases i with
  | enc v => exact congrArg Instr.enc (portValue_of_portInt h)
  | encts t => exact congrArg Instr.encts (portValue_of_portInt h)
  | dec len chars => exact congrArg (Instr.dec · chars) (Nat.min_eq_left (of_decide_eq_true h))
  | decg groups => rfl
  | gen sel tseed => rfl
  | genm sel tseed => rfl
  | init its irv irnd => rfl

/-- DEC reads no difference between a length and the saturated one: both are 26, or both are refused with the same INFO. -/
theorem decodeString_saturated (len : Nat) (chars : Vector Code 26) (s : State) :
    decodeString (min len 0xFFFF) chars s = decodeString len chars s := by
  by_cases hlen : len = 26
  · rw [hlen]; rfl
  · have hinfo : lenInfo (min len 0xFFFF) = lenInfo len := by
      unfold lenInfo
      rw [show min (min len 0xFFFF) 255 = min len 255 by omega]
    rw [decodeString, decodeString, if_pos hlen, if_pos (by omega), hinfo]

/-- The instruction at the port does what `i` does: `i`'s range checks see only what the port tells apart. -/
theorem body_presented (i : Instr) (s : State) : body (presented i) s = body i s := by
  cases i with
  | enc v =>
    rcases portValue_cases ulidBound v with ⟨hout, hv⟩ | ⟨_, hv⟩
    · rw [presented, hv]; exact (if_pos hout).symm
    · rw [presented, hv]
  | encts t =>
    rcases portValue_cases (maxEpochTime + 1) t with ⟨hout, ht⟩ | ⟨_, ht⟩
    · have hrefused : t < 0 ∨ t > maxEpochTime := by omega
      rw [presented, ht]; exact (if_pos hrefused).symm
    · rw [presented, ht]
  | dec len chars => exact decodeString_saturated len chars s
  | decg groups => rfl
  | gen sel tseed => rfl
  | genm sel tseed => rfl
  | init its irv irnd => rfl

theorem exec_presented (i : Instr) (s : State) : exec (presented i) s = exec i s := by
  rcases bit_cases s.fatal with h | h
  · rw [exec_alive _ s h, exec_alive i s h, body_presented]
  · rw [exec_fatal _ s h, exec_fatal i s h]

/-! ### From the port to an instruction and back -/

/-- The word an instruction is presented with is made of its opcode and, for GEN and GENM, its time source (R54). -/
theorem encode_operandsOf_cmd {c : Command} {m : Mnemonic} (h : opcodeOf c.cmd = some m) :
    (encode (operandsOf m c)).cmd = c.cmd := by
  have hword := commandWord_of_opcodeOf c.cmd m h
  cases m with
  | GEN => exact hword
  | GENM => exact hword
  | ENC | ENCTS | DECG | DEC | INIT =>
    rw [selField_of_opcodeOf c.cmd _ h (by decide) (by decide)] at hword
    exact hword

/-! ### Range errors (R53; 40_encode.md R60, R61) -/

theorem exec_enc_out_of_range (v : Int) (s : State) (hv : v < 0 ∨ 2 ^ 128 ≤ v) (hs : s.fatal = 0) :
    exec (.enc v) s = .next (raise .rangeValue 0 s) :=
  (exec_alive _ _ hs).trans (congrArg _ (if_pos hv))

theorem exec_encts_out_of_range (t : Int) (s : State) (ht : t < 0 ∨ 281474976710655 < t) (hs : s.fatal = 0) :
    exec (.encts t) s = .next (raise .rangeTs 0 s) :=
  (exec_alive _ _ hs).trans (congrArg _ (if_pos ht))

/-- ENC at the port reports the range error exactly when the flag is 1. -/
theorem enc_verdict (oor : BitVec 1) (w : BitVec 128) (s : State) (hs : s.fatal = 0) :
    ∃ t r, exec (.enc (portOperand oor w)) s = .next t ∧ t.response = some r ∧ (r.err = 0x2 ↔ oor = 1) := by
  rcases bit_cases oor with rfl | rfl
  · obtain ⟨r, he, hr⟩ := exec_enc_in_range (portOperand 0 w) s (Int.natCast_nonneg _)
      (by have := w.isLt; rw [portOperand_zero]; omega) hs
    exact ⟨_, r, he, rfl, by rw [hr.err]; decide⟩
  · exact ⟨_, _, exec_enc_out_of_range outOfRangeInt s (by decide) hs, rfl, by decide⟩

/-- ENCTS at the port reports the range error exactly when the flag is 1. -/
theorem encts_verdict (oor : BitVec 1) (w : BitVec 48) (s : State) (hs : s.fatal = 0) :
    ∃ t r, exec (.encts (portOperand oor w)) s = .next t ∧ t.response = some r ∧ (r.err = 0x3 ↔ oor = 1) := by
  rcases bit_cases oor with rfl | rfl
  · obtain ⟨r, he, hr⟩ := exec_encts_in_range (portOperand 0 w) s (Int.natCast_nonneg _)
      (by have := w.isLt; rw [portOperand_zero]; omega) hs
    exact ⟨_, r, he, rfl, by rw [hr.err]; decide⟩
  · exact ⟨_, _, exec_encts_out_of_range outOfRangeInt s (by decide) hs, rfl, by decide⟩

/-! ### The statements -/

/-- Settles O4: the port carries `presented i`, which is `i` when `i` is well-formed. -/
theorem decodeOfEncode : Obligations.DecodeOfEncode := by
  intro i hi
  rw [decode_encode, presented_of_wellFormed hi]

/-- Settles O6: the port carries `presented i`, which does what `i` does. -/
theorem portViewAgrees : Obligations.PortViewAgrees :=
  fun i s => ⟨presented i, decode_encode i, exec_presented i s⟩

/-- Settles O2: the decoder follows the opcode map, whose domain is the nine words. -/
theorem legalWordsAreTheNine : Obligations.LegalWordsAreTheNine :=
  fun c => ⟨decode_ok_iff_legal c, decode_of_not_legal⟩

/-- Settles O3: the decoder follows the opcode map, which is the table's match under its mask. -/
theorem opcodeRowSelects : Obligations.OpcodeRowSelects :=
  fun c m => (decode_row_iff c m).trans (opcodeOf_eq_some_iff c.cmd m)

/-- Settles O5: line by line, for the row the word selects. -/
theorem decodedLinesComeBack : Obligations.DecodedLinesComeBack := by
  intro c i hd
  obtain ⟨m, hm, rfl⟩ := decode_eq_ok hd
  rw [mnemonicOf_operandsOf]
  refine ⟨encode_operandsOf_cmd hm, ?_, ?_, ?_, ?_, ?_, ?_, ?_⟩
  · rintro rfl
    refine ⟨oorFlag_portOperand (by decide) c.vOor c.vW, fun h0 => ?_⟩
    simpa [encode, operandsOf, h0] using oorWord_portOperand_zero (bound := ulidBound) (by decide) c.vW
  · rintro rfl
    refine ⟨oorFlag_portOperand (by decide) c.tOor c.tW, fun h0 => ?_⟩
    simpa [encode, operandsOf, h0] using oorWord_portOperand_zero (bound := maxEpochTime + 1) (by decide) c.tW
  · rintro rfl
    simp only [encode, operandsOf, packGroups_unpackGroups]
  · rintro rfl
    simp only [encode, operandsOf, saturatedLen_toNat, packChars_unpackChars, and_self]
  · rintro rfl
    rfl
  · rintro rfl
    rfl
  · rintro rfl
    exact ⟨rfl, rfl, rfl⟩

/-- Settles O7: the adapter's flag and word, and the block's verdict behind them, for ENC and for ENCTS. -/
theorem integerOperandAssembly : Obligations.IntegerOperandAssembly := by
  have opcodeEnc {c : Command} (hc : c.cmd = 0x01) : opcodeOf c.cmd = some .ENC := hc ▸ rfl
  have opcodeEncts {c : Command} (hc : c.cmd = 0x02) : opcodeOf c.cmd = some .ENCTS := hc ▸ rfl
  refine ⟨fun v => ⟨oorFlag_eq_one_iff ulidBound v, toNat_oorWord (by decide)⟩,
    fun t => ⟨(oorFlag_eq_one_iff _ t).trans (by unfold maxEpochTime; omega), toNat_oorWord (by decide)⟩, ?_, ?_, ?_, ?_,
    fun g => decode_encode (.decg g), fun len chars => ⟨_, decode_encode (.dec len chars)⟩⟩
  · intro c w hc hoor
    rw [decode_of_opcodeOf (opcodeEnc hc), decode_of_opcodeOf (c := { c with vW := w }) (opcodeEnc hc)]
    simp only [operandsOf, hoor, portOperand_one]
  · intro c w hc hoor
    rw [decode_of_opcodeOf (opcodeEncts hc), decode_of_opcodeOf (c := { c with tW := w }) (opcodeEncts hc)]
    simp only [operandsOf, hoor, portOperand_one]
  · exact fun c s hc hs =>
      ⟨_, (enc_verdict c.vOor c.vW s hs).imp fun t ⟨r, h⟩ => ⟨r, decode_of_opcodeOf (opcodeEnc hc), h⟩⟩
  · exact fun c s hc hs =>
      ⟨_, (encts_verdict c.tOor c.tW s hs).imp fun t ⟨r, h⟩ => ⟨r, decode_of_opcodeOf (opcodeEncts hc), h⟩⟩

/-- Settles O30: NEWGEN is INIT of an unset payload at time 0, and ULID is ENC of the joined value, which is in range. -/
theorem pseudoInstructions : Obligations.PseudoInstructions := by
  refine ⟨fun s hs => ⟨_, _, rfl, exec_alive _ s hs, rfl, rfl, rfl⟩, fun s hs => ⟨_, _, rfl, exec_fatal _ s hs, hs⟩, ?_⟩
  intro t r s hs
  have hjoin : t.toNat <<< 80 ||| r.toNat = t.toNat * 2 ^ 80 + r.toNat := by
    rw [← Nat.shiftLeft_add_eq_or_of_lt r.isLt, Nat.shiftLeft_eq]
  obtain ⟨q, he, hq⟩ := exec_enc_in_range ((t.toNat * 2 ^ 80 + r.toNat : Nat) : Int) s (Int.natCast_nonneg _)
    (by have := t.isLt; have := r.isLt; omega) hs
  exact ⟨_, q, rfl, by rw [hjoin]; exact he, hq⟩

/-- Settles O35: the opcode map on the nine words, and the refusal of every other. -/
theorem illegalWordsRaise : Obligations.IllegalWordsRaise := by
  refine ⟨fun c => ?_, fun s c rest hw hs hp hc => ?_⟩
  · have row {m : Mnemonic} (hm : opcodeOf c.cmd = some m) := (decode_row_iff c m).2 hm
    exact ⟨fun h => row (h ▸ rfl), fun h => row (h ▸ rfl), fun h => row (h ▸ rfl), fun h => row (h ▸ rfl),
      fun h => row (h.elim (· ▸ rfl) (· ▸ rfl)), fun h => row (h.elim (· ▸ rfl) (· ▸ rfl)), fun h => row (h ▸ rfl)⟩
  · have hrefuse : refuseIllegal c.cmd (acceptEvent rest s) = raise .illegal c.cmd (acceptEvent rest s) :=
      withPrelude_alive _ _ hs
    exact ⟨_, (step_of_decode_error hw hp (decode_of_not_legal hc)).trans (congrArg _ hrefuse),
      blankResponse_reports .illegal c.cmd⟩

/-- Settles O1: the decoder is evaluated on the eight commands. -/
theorem listedWordsDecode : Obligations.ListedWordsDecode := by
  unfold Obligations.ListedWordsDecode
  decide

end Sys2Proof.Machine
end

section
/-!
PROOFS. The encoder unit of 40_encode.md (R60, R61, R64), and the two round trips between it and the decoder unit (41_decode.md
section 3, R82 and R83).
-/

namespace Sys2Proof.Machine

open Sys2Proof.Safety

/-! ### The characters of an emission (R64) -/

theorem sym_mem_alphabet : ∀ k : Group, sym k ∈ alphabet := by decide

theorem chr_mem_alphabet_of_emitsValue {r : Response} {v : Nat} (h : EmitsValue r v) (i : Fin 26) : r.chr[i] ∈ alphabet :=
  h.chr i ▸ sym_mem_alphabet _

theorem chr_mem_alphabet_of_emitsTime {r : Response} {t : Nat} (h : EmitsTime r t) (i : Fin 26) (hi : i.val < 10) :
    r.chr[i] ∈ alphabet :=
  h.chr i hi ▸ sym_mem_alphabet _

/-- A response with a code other than 0 is not a success. -/
theorem not_ok_of_reports {r : Response} {code : BitVec 4} {info : BitVec 8} (h : Reports r code info) (hcode : code ≠ 0) :
    r.err ≠ 0 :=
  h.err ▸ hcode

/-- A GEN that succeeds emits its time with the entropy it sampled. -/
theorem generatePlain_ok {t : Millis} {s : State} {r : Response} (hr : (generatePlain t s).response = some r)
    (hok : r.err = 0) : r = emission (t ++ (entSample s).ent) := by
  rcases generatePlain_cases t s with ⟨_, h⟩ | ⟨_, h⟩ <;> rw [h] at hr <;> cases hr
  · cases hok
  · rfl

/-- A GENM that succeeds emits its time with some payload, on either transition. -/
theorem generateMonotonic_ok {t : Millis} {s : State} {r : Response} (hr : (generateMonotonic t s).response = some r)
    (hok : r.err = 0) : ∃ p : Payload, r = emission (t ++ p) := by
  rcases generateMonotonic_cases t s with ⟨_, _, h⟩ | ⟨_, _, h⟩ | ⟨_, _, h⟩ | ⟨_, _, _, _, h⟩ | ⟨_, _, _, _, h⟩ <;>
    rw [h] at hr <;> cases hr
  · cases hok
  · exact ⟨_, rfl⟩
  · cases hok
  · cases hok
  · exact ⟨_, rfl⟩

/-- A command that succeeds was not refused by the prelude: the response is its body's. -/
theorem exec_ok {i : Instr} {s t : State} {r : Response} (h : exec i s = .next t) (hr : t.response = some r)
    (hok : r.err = 0) : s.fatal = 0 ∧ (body i s).response = some r := by
  rcases exec_cases i s t h with ⟨_, rfl⟩ | ⟨hs, rfl⟩
  · cases hr; cases hok
  · exact ⟨hs, hr⟩

/-! ### ENC and ENCTS on every integer (R60, R61) -/

/-- ENC while the block is not fatal: the emission of a value in range, or the range error. -/
theorem exec_enc_alive (v : Int) (s : State) (hs : s.fatal = 0) :
    ∃ r, exec (.enc v) s = .next { s with response := some r } ∧
      ((0 ≤ v ∧ v < 2 ^ 128) ∧ EmitsValue r v.toNat ∨ (v < 0 ∨ 2 ^ 128 ≤ v) ∧ Reports r 0x2 0x00) := by
  by_cases hv : v < 0 ∨ 2 ^ 128 ≤ v
  · exact ⟨_, exec_enc_out_of_range v s hv hs, .inr ⟨hv, blankResponse_reports .rangeValue 0⟩⟩
  · have hin : 0 ≤ v ∧ v < 2 ^ 128 := by omega
    obtain ⟨r, he, hr⟩ := exec_enc_in_range v s hin.1 hin.2 hs
    exact ⟨r, he, .inl ⟨hin, hr⟩⟩

/-- ENCTS while the block is not fatal: the emission of a timestamp in range, or the range error. -/
theorem exec_encts_alive (t : Int) (s : State) (hs : s.fatal = 0) :
    ∃ r, exec (.encts t) s = .next { s with response := some r } ∧
      ((0 ≤ t ∧ t ≤ 281474976710655) ∧ EmitsTime r t.toNat ∨ (t < 0 ∨ 281474976710655 < t) ∧ Reports r 0x3 0x00) := by
  by_cases ht : t < 0 ∨ 281474976710655 < t
  · exact ⟨_, exec_encts_out_of_range t s ht hs, .inr ⟨ht, blankResponse_reports .rangeTs 0⟩⟩
  · have hin : 0 ≤ t ∧ t ≤ 281474976710655 := by omega
    obtain ⟨r, he, hr⟩ := exec_encts_in_range t s hin.1 (by omega) hs
    exact ⟨r, he, .inl ⟨hin, hr⟩⟩

/-- Every successful ENC, GEN or GENM emits some value. -/
theorem emitsValue_of_ok {i : Instr} {s t : State} {r : Response}
    (hi : mnemonicOf i = .ENC ∨ mnemonicOf i = .GEN ∨ mnemonicOf i = .GENM) (h : exec i s = .next t)
    (hr : t.response = some r) (hok : r.err = 0) : ∃ v, EmitsValue r v := by
  obtain ⟨hs, hbody⟩ := exec_ok h hr hok
  cases i with
  | enc v =>
    obtain ⟨q, he, hq⟩ := exec_enc_alive v s hs
    cases h.symm.trans he
    cases hr
    rcases hq with ⟨_, hq⟩ | ⟨_, hq⟩
    · exact ⟨_, hq⟩
    · exact absurd hok (not_ok_of_reports hq (by decide))
  | gen sel x => exact ⟨_, generatePlain_ok hbody hok ▸ emission_emits _⟩
  | genm sel x =>
    obtain ⟨p, rfl⟩ := generateMonotonic_ok hbody hok
    exact ⟨_, emission_emits _⟩
  | encts _ | decg _ | dec _ _ | init _ _ _ => simp [mnemonicOf] at hi

/-- Every successful ENCTS emits some timestamp. -/
theorem emitsTime_of_ok {v : Int} {s t : State} {r : Response} (h : exec (.encts v) s = .next t)
    (hr : t.response = some r) (hok : r.err = 0) : ∃ n, EmitsTime r n := by
  obtain ⟨q, he, hq⟩ := exec_encts_alive v s (exec_ok h hr hok).1
  cases h.symm.trans he
  cases hr
  rcases hq with ⟨_, hq⟩ | ⟨_, hq⟩
  · exact ⟨_, hq⟩
  · exact absurd hok (not_ok_of_reports hq (by decide))

/-! ### Decoding groups and characters (41_decode.md R80, R81) -/

theorem paddedTime_le_of_toNat_lt (w : BitVec 130) (h : w.toNat < 2 ^ 128) : (paddedTime w).toNat ≤ maxEpochTime := by
  rw [paddedTime, toNat_slice]
  unfold maxEpochTime
  omega

/-- A leading group of at most 7 leaves the two top bits of the padded value 0. -/
theorem packGroups_lt_of_leading_le (g : Vector Group 26) (h : g[0].toNat ≤ 7) : (packGroups g).toNat < 2 ^ 128 := by
  have hbound := (packGroups g).isLt
  have hdigit : (packGroups g).toNat / 2 ^ 125 % 32 = g[0].toNat := packGroups_digit g 0
  omega

/-- DECG of groups whose padded value has 128 bits, while the block is not fatal. -/
theorem exec_decg_in_range (g : Vector Group 26) (s : State) (h : (packGroups g).toNat < 2 ^ 128) (hs : s.fatal = 0) :
    ∃ r, exec (.decg g) s = .next { s with response := some r } ∧
      DecodesTo r ((packGroups g).toNat / 2 ^ 80) ((packGroups g).toNat % 2 ^ 80) := by
  rcases decodeGroups_cases g s with ⟨hgt, _⟩ | ⟨_, hbody⟩
  · exact absurd (paddedTime_le_of_toNat_lt _ h) (Nat.not_le.mpr hgt)
  · exact ⟨_, (exec_alive _ s hs).trans (congrArg _ hbody), decoded_decodes _ h⟩

/-- DEC of 26 characters of the alphabet is DECG of their indices, refused or not. -/
theorem exec_dec_eq_decg {chars : Vector Code 26} {g : Vector Group 26} {s : State}
    (h : ∀ i : Fin 26, unsym s.cfg.caseFold chars[i] = some g[i]) : exec (.dec 26 chars) s = exec (.decg g) s := by
  have hgood : firstBadChar s.cfg.caseFold chars = none :=
    (firstBadChar_eq_none _ _).mpr fun i => by rw [h i]; nofun
  have hbody : body (.dec 26 chars) s = body (.decg g) s := by
    simp [body, decodeString, hgood, charGroups_eq _ _ _ h]
  rw [exec_eq, exec_eq, withPrelude, withPrelude, hbody]

/-- In a string without a bad character every character maps to its group. -/
theorem unsym_eq_charGroups {caseFold : Bool} {chars : Vector Code 26} (h : firstBadChar caseFold chars = none) (i : Fin 26) :
    unsym caseFold chars[i] = some (charGroups caseFold chars)[i] := by
  obtain ⟨k, hk⟩ := Option.ne_none_iff_exists'.mp ((firstBadChar_eq_none _ _).mp h i)
  rw [Fin.getElem_fin] at hk
  simp [charGroups, hk]

/-- A DECG body that succeeds decodes the packed groups. -/
theorem decodeGroups_ok {g : Vector Group 26} {s : State} {r : Response} (hr : (decodeGroups g s).response = some r)
    (hok : r.err = 0) : DecodesTo r ((packGroups g).toNat / 2 ^ 80) ((packGroups g).toNat % 2 ^ 80) := by
  rcases decodeGroups_cases g s with ⟨_, h⟩ | ⟨hle, h⟩ <;> rw [h] at hr <;> cases hr
  · cases hok
  · exact decoded_decodes _ (toNat_lt_of_paddedTime_le _ hle)

/-- A DEC body that succeeds has read 26 characters of the alphabet, and decodes the packed vector of their indices. -/
theorem decodeString_ok {len : Nat} {chars : Vector Code 26} {s : State} {r : Response}
    (hr : (decodeString len chars s).response = some r) (hok : r.err = 0) :
    ∃ g : Vector Group 26, (∀ i : Fin 26, unsym s.cfg.caseFold chars[i] = some g[i]) ∧
      DecodesTo r ((packGroups g).toNat / 2 ^ 80) ((packGroups g).toNat % 2 ^ 80) := by
  rcases decodeString_cases len chars s with ⟨_, h⟩ | ⟨_, _, _, h⟩ | ⟨_, hgood, h⟩ <;> rw [h] at hr
  · cases hr; cases hok
  · cases hr; cases hok
  · exact ⟨_, unsym_eq_charGroups hgood, decodeGroups_ok hr hok⟩

/-! ### From a value to its symbols and back (41_decode.md section 3) -/

/-- The value of a decoding is its timestamp and randomness joined. -/
theorem val_of_decodesTo {r : Response} {n : Nat} (h : DecodesTo r (n / 2 ^ 80) (n % 2 ^ 80)) : r.val.toNat = n := by
  rw [h.val]; omega

/-- The emission of a packed group vector has that vector as its groups. -/
theorem grp_eq_of_emitsValue_packGroups {r : Response} {g : Vector Group 26} (h : EmitsValue r (packGroups g).toNat) :
    r.grp = g := by
  ext1 i hi
  exact BitVec.eq_of_toNat_eq ((h.grp ⟨i, hi⟩).trans (packGroups_digit g ⟨i, hi⟩))

/-- ENC of a value the block decoded from the groups `g` has the groups `g` and their characters. -/
theorem exec_enc_of_decodesTo {r : Response} {g : Vector Group 26} {s : State} (hs : s.fatal = 0)
    (h : DecodesTo r ((packGroups g).toNat / 2 ^ 80) ((packGroups g).toNat % 2 ^ 80)) :
    ∃ q, exec (.enc r.val.toNat) s = .next { s with response := some q } ∧ q.grp = g ∧ ∀ i : Fin 26, q.chr[i] = sym g[i] := by
  obtain ⟨q, he, hq⟩ := exec_enc_in_range r.val.toNat s (Int.natCast_nonneg _) (by have := r.val.isLt; omega) hs
  rw [Int.toNat_natCast, val_of_decodesTo h] at hq
  have hgrp : q.grp = g := grp_eq_of_emitsValue_packGroups hq
  exact ⟨q, he, hgrp, fun i => by rw [hq.chr, hgrp]⟩

/-! ### The upper-case map and the alphabet (R83) -/

theorem upperCode_sym : ∀ k : Group, upperCode (sym k) = sym k := by decide

theorem upperCode_lowerCode : ∀ k : Group, ∀ c ∈ lowerCode k, upperCode c = sym k := by decide

/-- Without CASE_FOLD the ROM undoes the inverse map. -/
theorem sym_of_unsym_no_fold {c : Code} {k : Group} (h : unsym false c = some k) : sym k = c := by
  rcases (unsym_eq_some_iff false c k).mp h with rfl | ⟨hf, _⟩
  · rfl
  · cases hf

/-- With or without CASE_FOLD the ROM gives an accepted code back in upper case. -/
theorem sym_of_unsym {caseFold : Bool} {c : Code} {k : Group} (h : unsym caseFold c = some k) : sym k = upperCode c := by
  rcases (unsym_eq_some_iff caseFold c k).mp h with rfl | ⟨_, hl⟩
  · exact (upperCode_sym k).symm
  · exact (upperCode_lowerCode k c hl).symm

/-- The response of any command is well formed. -/
theorem exec_wellFormed {i : Instr} {s t : State} {r : Response} (h : exec i s = .next t) (hr : t.response = some r) :
    WellFormedResponse r := by
  obtain ⟨q, hq, hwf⟩ := withPrelude_wellFormed (body_wellFormed i s)
  rw [exec_eq] at h
  cases h
  cases hq.symm.trans hr
  exact hwf

/-- A character of a well-formed response is a code of the ROM or 0, so no lower-case code. -/
theorem chr_lt_lowerCase_of_wellFormed {r : Response} (h : WellFormedResponse r) (i : Fin 26) : r.chr[i].toNat < 0x61 := by
  by_cases hi : i.val < r.nsym.toNat
  · rw [h.symbols i hi]
    exact sym_toNat_lt_lowerCase _
  · rw [(h.rest i (Nat.not_lt.mp hi)).2]
    decide

/-! ### The statements -/

/-- Settles O16: what ENC emits packs to the value again, and its characters map to its groups in every build. -/
theorem decodeUndoesEncode : Obligations.DecodeUndoesEncode := by
  intro v s h0 h1 hs
  obtain ⟨r, he, hr⟩ := exec_enc_in_range v s h0 h1 hs
  have hpack : (packGroups r.grp).toNat = v.toNat := packGroups_of_emitsValue hr
  obtain ⟨rg, hg, hrg⟩ := exec_decg_in_range r.grp s (by omega) hs
  have hdec : exec (.dec 26 r.chr) s = exec (.decg r.grp) s := exec_dec_eq_decg fun i => by rw [hr.chr, unsym_sym]
  rw [hpack] at hrg
  have hval : rg.val.toNat = v.toNat := val_of_decodesTo hrg
  exact ⟨r, rg, rg, he, hdec.trans hg, hg, hrg, hval, hrg, hval⟩

/-- Settles O17: a decoded value has the groups it was packed from as its only digits, and the ROM gives an accepted character
back in upper case, which without CASE_FOLD it is in already. -/
theorem encodeUndoesDecode : Obligations.EncodeUndoesDecode := by
  refine ⟨fun g s hlead hs => ?_, fun chars s r hs h hok => ?_, fun v s r i h => ?_⟩
  · obtain ⟨r, hd, hr⟩ := exec_decg_in_range g s (packGroups_lt_of_leading_le g hlead) hs
    obtain ⟨q, he, hgrp, _⟩ := exec_enc_of_decodesTo hs hr
    exact ⟨r, q, hd, hr.err, he, hgrp⟩
  · obtain ⟨g, hg, hr⟩ := decodeString_ok (exec_ok h rfl hok).2 hok
    obtain ⟨q, he, _, hchr⟩ := exec_enc_of_decodesTo hs hr
    refine ⟨q, he, fun hfold => ?_, fun _ i => (hchr i).trans (sym_of_unsym (hg i))⟩
    rw [hfold] at hg
    ext1 i hi
    exact (hchr ⟨i, hi⟩).trans (sym_of_unsym_no_fold (hg ⟨i, hi⟩))
  · exact chr_lt_lowerCase_of_wellFormed (exec_wellFormed h rfl) i

/-- Settles O9: the two ranges exclude each other, and each has its response. -/
theorem encResult : Obligations.EncResult := by
  intro v s hs
  obtain ⟨r, he, ⟨hin, hr⟩ | ⟨hout, hr⟩⟩ := exec_enc_alive v s hs
  · exact ⟨rfl, r, he, fun _ _ => hr, fun hout => by omega⟩
  · exact ⟨rfl, r, he, fun _ _ => by omega, fun _ => hr⟩

/-- Settles O10: the two ranges exclude each other, and each has its response. -/
theorem enctsResult : Obligations.EnctsResult := by
  intro t s hs
  obtain ⟨r, he, ⟨hin, hr⟩ | ⟨hout, hr⟩⟩ := exec_encts_alive t s hs
  · exact ⟨rfl, r, he, fun _ _ => hr, fun hout => by omega⟩
  · exact ⟨rfl, r, he, fun _ _ => by omega, fun _ => hr⟩

/-- Settles O13: a successful command of these emits a value or a timestamp, and the ROM holds the alphabet. -/
theorem outputsAreAlphabetic : Obligations.OutputsAreAlphabetic := by
  intro i s t r h hr hok
  refine ⟨fun hi => ?_, fun hi => ?_⟩
  · obtain ⟨v, hv⟩ := emitsValue_of_ok hi h hr hok
    exact ⟨hv.nsym, chr_mem_alphabet_of_emitsValue hv⟩
  · cases i <;> cases hi
    obtain ⟨n, hn⟩ := emitsTime_of_ok h hr hok
    exact ⟨hn.nsym, chr_mem_alphabet_of_emitsTime hn⟩

end Sys2Proof.Machine
end

section
/-!
PROOFS. The decoder unit of 41_decode.md: DECG and DEC with their checks in order (R80, R81), and the leading character (R84).
-/

namespace Sys2Proof.Machine

open Sys2Proof.Safety

/-! ### The two parts of a group vector (20_memory.md R42, R43) -/

/-- A group vector is its first 10 groups, then its last 16. -/
theorem toNat_packGroups_split (g : Vector Group 26) :
    (packGroups g).toNat = groupsValue (g.toList.take 10) * 2 ^ 80 + groupsValue (g.toList.drop 10) := by
  have hsplit : groupsValue g.toList = digitsFrom 5 (groupsValue (g.toList.take 10)) (g.toList.drop 10) := by
    conv_lhs => rw [← List.take_append_drop 10 g.toList]
    exact digitsFrom_append 5 0 _ _
  rw [toNat_packGroups, hsplit, digitsFrom_eq, List.length_drop, Vector.length_toList]
  rfl

theorem groupsValue_drop_lt (g : Vector Group 26) : groupsValue (g.toList.drop 10) < 2 ^ 80 := by
  have h := digitsFrom_lt 5 (g.toList.drop 10)
  rwa [List.length_drop, Vector.length_toList] at h

theorem packGroups_div (g : Vector Group 26) : (packGroups g).toNat / 2 ^ 80 = groupsValue (g.toList.take 10) := by
  have := toNat_packGroups_split g
  have := groupsValue_drop_lt g
  omega

theorem packGroups_mod (g : Vector Group 26) : (packGroups g).toNat % 2 ^ 80 = groupsValue (g.toList.drop 10) := by
  have := toNat_packGroups_split g
  have := groupsValue_drop_lt g
  omega

theorem toNat_paddedTime_packGroups (g : Vector Group 26) :
    (paddedTime (packGroups g)).toNat = groupsValue (g.toList.take 10) := by
  have := (packGroups g).isLt
  rw [paddedTime, toNat_slice, ← packGroups_div, Nat.mod_eq_of_lt (by omega)]

/-- R80's check looks at bits 128 and 129 of the padded value, the two top bits of the leading group. -/
theorem maxEpochTime_lt_iff_leading (g : Vector Group 26) :
    maxEpochTime < groupsValue (g.toList.take 10) ↔ 8 ≤ g[0].toNat := by
  have hbound := (packGroups g).isLt
  have hlead : (packGroups g).toNat / 2 ^ 125 % 32 = g[0].toNat := packGroups_digit g 0
  rw [← packGroups_div, maxEpochTime]
  omega

/-! ### DECG on every 26 groups (R80) -/

/-- `r` is R80's answer to the groups `g`: their two parts, or the timestamp error. -/
structure AnswersGroups (g : Vector Group 26) (r : Response) : Prop where
  inRange : groupsValue (g.toList.take 10) ≤ maxEpochTime →
    DecodesTo r (groupsValue (g.toList.take 10)) (groupsValue (g.toList.drop 10))
  outOfRange : maxEpochTime < groupsValue (g.toList.take 10) → Reports r 0x6 (leadingInfo g[0])

/-- The checks and writes that DECG consists of, and DEC ends with, answer as R80 says. -/
theorem decodeGroups_answers (g : Vector Group 26) (s : State) :
    ∃ r, decodeGroups g s = respond r s ∧ AnswersGroups g r := by
  rcases decodeGroups_cases g s with ⟨hgt, hbody⟩ | ⟨hle, hbody⟩
  · rw [toNat_paddedTime_packGroups] at hgt
    exact ⟨_, hbody, fun hle => by omega, fun _ => blankResponse_reports .valueTs _⟩
  · have hdec := decoded_decodes _ (toNat_lt_of_paddedTime_le _ hle)
    rw [packGroups_div, packGroups_mod] at hdec
    rw [toNat_paddedTime_packGroups] at hle
    exact ⟨_, hbody, fun _ => hdec, fun hgt => by omega⟩

theorem exec_decg_answers (g : Vector Group 26) (s : State) (hs : s.fatal = 0) :
    ∃ r, exec (.decg g) s = .next { s with response := some r } ∧ AnswersGroups g r := by
  obtain ⟨r, hbody, hr⟩ := decodeGroups_answers g s
  exact ⟨r, (exec_alive _ s hs).trans (congrArg _ hbody), hr⟩

theorem AnswersGroups.ok {g : Vector Group 26} {r : Response} (h : AnswersGroups g r) (hlead : g[0].toNat < 8) :
    r.err = 0x0 :=
  (h.inRange (Nat.not_lt.mp fun hgt => by have := (maxEpochTime_lt_iff_leading g).mp hgt; omega)).err

theorem AnswersGroups.valueTs {g : Vector Group 26} {r : Response} (h : AnswersGroups g r) (hlead : 8 ≤ g[0].toNat) :
    r.err = 0x6 :=
  (h.outOfRange ((maxEpochTime_lt_iff_leading g).mpr hlead)).err

theorem AnswersGroups.err_eq_valueTs_iff {g : Vector Group 26} {r : Response} (h : AnswersGroups g r) :
    r.err = 0x6 ↔ 8 ≤ g[0].toNat := by
  refine ⟨fun herr => Nat.not_lt.mp fun hlead => ?_, h.valueTs⟩
  rw [h.ok hlead] at herr
  exact absurd herr (by decide)

/-! ### The lowest bad position of a string (R81, R85) -/

/-- Every character before the position the search finds is in the alphabet. -/
theorem firstBadChar_before {caseFold : Bool} {chars : Vector Code 26} {i j : Fin 26}
    (h : firstBadChar caseFold chars = some i) (hj : j < i) : unsym caseFold chars[j] ≠ none := by
  obtain ⟨_, k, hk, hki, hbefore⟩ := List.find?_eq_some_iff_getElem.mp h
  have hjk : j.val < k := by simpa [← hki, Fin.lt_def] using hj
  simpa [Option.isSome_iff_ne_none] using hbefore j.val hjk

/-- The search finds `i` exactly when `i` is the lowest bad position. -/
theorem firstBadChar_eq_some_iff {caseFold : Bool} {chars : Vector Code 26} {i : Fin 26} :
    firstBadChar caseFold chars = some i ↔
      unsym caseFold chars[i] = none ∧ ∀ j : Fin 26, j < i → unsym caseFold chars[j] ≠ none := by
  refine ⟨fun h => ⟨firstBadChar_bad _ _ _ h, fun j => firstBadChar_before h⟩, fun ⟨hbad, hbefore⟩ => ?_⟩
  cases hfind : firstBadChar caseFold chars with
  | none => exact absurd hbad ((firstBadChar_eq_none _ _).mp hfind i)
  | some k =>
    rcases lt_trichotomy k i with hlt | rfl | hgt
    · exact absurd (firstBadChar_bad _ _ _ hfind) (hbefore k hlt)
    · rfl
    · exact absurd hbad (firstBadChar_before hfind hgt)

/-! ### The leading character (R84) -/

/-- DEC of 26 characters of the alphabet gives R80's answer to their indices. -/
theorem exec_dec_answers {chars : Vector Code 26} {s : State} (hs : s.fatal = 0)
    (hgood : ∀ i : Fin 26, unsym s.cfg.caseFold chars[i] ≠ none) :
    ∃ g r, (∀ i : Fin 26, unsym s.cfg.caseFold chars[i] = some g[i]) ∧
      exec (.dec 26 chars) s = .next { s with response := some r } ∧ AnswersGroups g r := by
  have hg := unsym_eq_charGroups ((firstBadChar_eq_none s.cfg.caseFold chars).mpr hgood)
  obtain ⟨r, he, hr⟩ := exec_decg_answers (charGroups s.cfg.caseFold chars) s hs
  exact ⟨_, r, hg, (exec_dec_eq_decg hg).trans he, hr⟩

/-- The characters `0` to `7` stand at the indices below 8 of the ROM. -/
theorem exists_sym_of_mem_low : ∀ c ∈ stringCodes "01234567", ∃ k : Group, k.toNat < 8 ∧ sym k = c := by decide +kernel

/-- The characters `8` to `Z` stand at the other 24. -/
theorem exists_sym_of_mem_high :
    ∀ c ∈ stringCodes "89ABCDEFGHJKMNPQRSTVWXYZ", ∃ k : Group, 8 ≤ k.toNat ∧ sym k = c := by decide +kernel

/-- A character of the ROM maps to its own index in every build. -/
theorem eq_of_unsym_sym {caseFold : Bool} {c : Code} {k k' : Group} (hk : sym k = c) (h : unsym caseFold c = some k') :
    k' = k := by
  subst hk
  exact Option.some.inj (h.symm.trans (unsym_sym caseFold k))

/-! ### The statements -/

/-- Settles O14: the check is one of the leading group, and its two sides exclude each other. -/
theorem decgResult : Obligations.DecgResult := by
  intro g s hs
  obtain ⟨r, he, hr⟩ := exec_decg_answers g s hs
  exact ⟨rfl, maxEpochTime_lt_iff_leading g, r, he, hr.inRange, hr.outOfRange⟩

/-- Settles O15: the cases are the checks in their order, and each excludes the hypotheses of the clauses of the others. -/
theorem decResult : Obligations.DecResult := by
  intro len chars s hs
  have hexec := exec_alive (.dec len chars) s hs
  refine ⟨rfl, ?_⟩
  rcases decodeString_cases len chars s with ⟨hlen, hbody⟩ | ⟨hlen, k, hk, hbody⟩ | ⟨hlen, hgood, hbody⟩
  · exact ⟨_, hexec.trans (congrArg _ hbody), fun _ => blankResponse_reports .valueLen _, fun _ h26 => absurd h26 hlen,
      fun _ h26 => absurd h26 hlen⟩
  · refine ⟨_, hexec.trans (congrArg _ hbody), fun hne => absurd hlen hne, fun i _ hbad hbefore => ?_, fun g _ hg => ?_⟩
    · obtain rfl : k = i := Option.some.inj (hk.symm.trans (firstBadChar_eq_some_iff.mpr ⟨hbad, hbefore⟩))
      exact blankResponse_reports .valueChar _
    · have hnone := firstBadChar_bad _ _ _ hk
      rw [hg k] at hnone
      cases hnone
  · obtain ⟨r, hdec, hr⟩ := decodeGroups_answers (charGroups s.cfg.caseFold chars) s
    refine ⟨r, hexec.trans (congrArg _ (hbody.trans hdec)), fun hne => absurd hlen hne, fun i _ hbad _ => ?_,
      fun g _ hg => ?_⟩
    · exact absurd hbad ((firstBadChar_eq_none _ _).mp hgood i)
    · rw [charGroups_eq _ _ g hg] at hr
      exact ⟨hr.inRange, hr.outOfRange⟩

/-- Settles O18: DEC's answer is R80's on the indices, and the ROM has `0` to `7` below index 8 and `8` to `Z` from there on. -/
theorem leadingCharacterLaw : Obligations.LeadingCharacterLaw := by
  intro chars s hs hgood
  obtain ⟨g, r, hg, he, hr⟩ := exec_dec_answers hs hgood
  have hlead : unsym s.cfg.caseFold chars[0] = some g[0] := hg 0
  refine ⟨r, he, ?_, fun hlow => ?_, fun hhigh => ?_⟩
  · rw [hr.err_eq_valueTs_iff, hlead]
    simp
  · obtain ⟨k, hk, hsym⟩ := exists_sym_of_mem_low _ hlow
    exact hr.ok (eq_of_unsym_sym hsym hlead ▸ hk)
  · obtain ⟨k, hk, hsym⟩ := exists_sym_of_mem_high _ hhigh
    exact hr.valueTs (eq_of_unsym_sym hsym hlead ▸ hk)

end Sys2Proof.Machine
end

section
/-!
PROOFS. The pair the generator registers hold (42_generator.md section 4): a GENM emits the pair it leaves in them, and every
other step without reset or INIT leaves them alone.
-/

namespace Sys2Proof.Machine

open Sys2Proof.Safety

/-! ### The fields of an emitted value -/

@[simp] theorem emission_append_ts (t : Millis) (r : Payload) : (emission (t ++ r)).ts = t := by
  have h := (emission_append_emits t r).ts
  exact BitVec.eq_of_toNat_eq (by have := r.isLt; omega)

@[simp] theorem emission_append_rnd (t : Millis) (r : Payload) : (emission (t ++ r)).rnd = r := by
  have h := (emission_append_emits t r).rnd
  exact BitVec.eq_of_toNat_eq (by have := r.isLt; omega)

/-! ### The pair the generator registers hold (42_generator.md section 4) -/

/-- LAST_TS, LAST_RND and RND_VALID are the same. -/
structure SameGenerator (s t : State) : Prop where
  lastTs : t.lastTs = s.lastTs
  lastRnd : t.lastRnd = s.lastRnd
  rndValid : t.rndValid = s.rndValid

theorem holdsEmitted_of_same {last : Response} {s t : State} (h : HoldsEmitted last s) (hst : SameGenerator s t) :
    HoldsEmitted last t :=
  ⟨hst.lastTs.trans h.lastTs, hst.lastRnd.trans h.lastRnd, hst.rndValid.trans h.rndValid⟩

/-- The command port is no part of what is compared. -/
theorem SameGenerator.of_acceptEvent {rest : List PortEvent} {s t : State} (h : SameGenerator (acceptEvent rest s) t) :
    SameGenerator s t :=
  ⟨h.lastTs, h.lastRnd, h.rndValid⟩

/-- A GENM body emits the pair it leaves in the registers, or ends in an error and leaves them alone. -/
theorem generateMonotonic_emits_or_keeps (t : Millis) (s : State) :
    ∃ r, (generateMonotonic t s).response = some r ∧
      (r.err = 0 ∧ HoldsEmitted r (generateMonotonic t s) ∨ r.err ≠ 0 ∧ SameGenerator s (generateMonotonic t s)) := by
  rcases generateMonotonic_cases t s with ⟨_, _, h⟩ | ⟨_, _, h⟩ | ⟨_, _, h⟩ | ⟨n, _, _, _, h⟩ | ⟨n, ht, _, _, h⟩ <;> rw [h]
  · exact ⟨_, rfl, .inr ⟨nofun, rfl, rfl, rfl⟩⟩
  · exact ⟨_, rfl, .inl ⟨rfl, by simp, by simp, rfl⟩⟩
  · exact ⟨_, rfl, .inr ⟨nofun, rfl, rfl, rfl⟩⟩
  · exact ⟨_, rfl, .inr ⟨nofun, rfl, rfl, rfl⟩⟩
  · exact ⟨_, rfl, .inl ⟨rfl, by simp [ht], by simp, rfl⟩⟩

/-- So does the GENM command; the prelude's refusal is one of the errors. -/
theorem exec_genm_emits_or_keeps {sel : BitVec 1} {x : Millis} {s t : State} (h : exec (.genm sel x) s = .next t) :
    ∃ r, t.response = some r ∧ (r.err = 0 ∧ HoldsEmitted r t ∨ r.err ≠ 0 ∧ SameGenerator s t) := by
  rcases exec_cases _ s t h with ⟨_, rfl⟩ | ⟨_, rfl⟩
  · exact ⟨_, rfl, .inr ⟨nofun, rfl, rfl, rfl⟩⟩
  · obtain ⟨r, hr, hok | ⟨herr, hts, hrnd, hvalid⟩⟩ :=
      generateMonotonic_emits_or_keeps (selectedTime sel x s) (afterTime sel s)
    · exact ⟨r, hr, .inl hok⟩
    · exact ⟨r, hr, .inr ⟨herr, hts.trans (afterTime_lastTs sel s), hrnd.trans (afterTime_lastRnd sel s),
        hvalid.trans (afterTime_rndValid sel s)⟩⟩

theorem refuseIllegal_sameGenerator (cmd : BitVec 8) (s : State) : SameGenerator s (refuseIllegal cmd s) := by
  rcases withPrelude_cases (raise .illegal cmd) s with ⟨_, h⟩ | ⟨_, h⟩ <;> rw [refuseIllegal, h] <;> exact ⟨rfl, rfl, rfl⟩

/-- A step that responds to a command has its response as GENM output exactly if the command is a GENM and succeeds. -/
theorem genmOutput_of_command {s t : State} {c : Command} {rest : List PortEvent} {r : Response}
    (hp : s.pending = .command c :: rest) (hr : t.response = some r) :
    genmOutput s t = if opcodeOf c.cmd = some .GENM ∧ r.err = 0 then [r] else [] := by
  simp only [genmOutput, hp, hr]

/-- The GENM output of a step is empty, or the good response of the GENM command in front of the port. -/
theorem genmOutput_cases (s t : State) :
    genmOutput s t = [] ∨ ∃ c rest r, s.pending = .command c :: rest ∧ opcodeOf c.cmd = some .GENM ∧
      t.response = some r ∧ r.err = 0 ∧ genmOutput s t = [r] := by
  unfold genmOutput
  split
  · next c rest r hp hr =>
    by_cases h : opcodeOf c.cmd = some .GENM ∧ r.err = 0
    · exact .inr ⟨c, rest, r, hp, h.1, hr, h.2, if_pos h⟩
    · exact .inl (if_neg h)
  · exact .inl rfl

/-- A step that performs a GENM command and answers with no error leaves the pair of its answer in the registers. -/
theorem step_genm_holdsEmitted {s t : State} {c : Command} {rest : List PortEvent} {r : Response}
    (hp : s.pending = .command c :: rest) (hc : opcodeOf c.cmd = some .GENM) (h : step s = .next t)
    (hr : t.response = some r) (hok : r.err = 0) : HoldsEmitted r t := by
  have hd : decode c = .ok (operandsOf .GENM c) := decode_of_opcodeOf hc
  rcases step_cases s t h with ⟨hp', _⟩ | ⟨_, hp', _⟩ | ⟨_, _, _, hp', _, hd', he⟩ | ⟨_, _, hp', _, hd', _⟩ <;>
    cases hp.symm.trans hp'
  · cases hd.symm.trans hd'
    obtain ⟨q, hq, ⟨_, hheld⟩ | ⟨herr, _⟩⟩ := exec_genm_emits_or_keeps he <;> cases hq.symm.trans hr
    · exact hheld
    · exact absurd hok herr
  · cases hd.symm.trans hd'

/-- A step without reset, INIT or GENM output writes none of the three registers. -/
theorem step_sameGenerator {s t : State} (hkeep : ∀ e, s.pending.head? = some e → KeepsGenerator e)
    (h : step s = .next t) (hnone : genmOutput s t = []) : SameGenerator s t := by
  rcases step_cases s t h with ⟨_, rfl⟩ | ⟨rest, hp, _⟩ | ⟨c, rest, i, hp, _, hd, he⟩ | ⟨c, rest, _, _, _, rfl⟩
  · exact ⟨rfl, rfl, rfl⟩
  · exact absurd (hkeep .reset (by rw [hp]; rfl)) id
  · obtain ⟨m, hm, rfl⟩ := decode_eq_ok hd
    have hinit : m ≠ .INIT := by
      rintro rfl
      exact hkeep (.command c) (by rw [hp]; rfl) hm
    by_cases hgenm : m = .GENM
    · subst hgenm
      obtain ⟨r, hr, ⟨hok, _⟩ | ⟨_, hsame⟩⟩ := exec_genm_emits_or_keeps he
      · rw [genmOutput_of_command hp hr, if_pos ⟨hm, hok⟩] at hnone
        cases hnone
      · exact hsame.of_acceptEvent
    · obtain ⟨hts, hrnd, hvalid⟩ := exec_keeps_generator (by simpa using hgenm) (by simpa using hinit) he
      exact ⟨hts, hrnd, hvalid⟩
  · exact (refuseIllegal_sameGenerator c.cmd (acceptEvent rest s)).of_acceptEvent

/-- Settles O54: a step's GENM output is the pair it leaves in the registers, and a step without output leaves them alone. -/
theorem lastEmittedPairKept : Obligations.LastEmittedPairKept := by
  refine ⟨fun s t last hlast hkeep h => ?_, fun s t r h hmem => ?_⟩
  · rcases genmOutput_cases s t with hnone | ⟨c, rest, r, hp, hc, hr, hok, hout⟩
    · rw [hnone]
      exact holdsEmitted_of_same hlast (step_sameGenerator hkeep h hnone)
    · rw [hout]
      exact step_genm_holdsEmitted hp hc h hr hok
  · rcases genmOutput_cases s t with hnone | ⟨c, rest, q, hp, hc, hq, hok, hout⟩
    · rw [hnone] at hmem
      cases hmem
    · rw [hout, List.mem_singleton] at hmem
      exact hmem ▸ step_genm_holdsEmitted hp hc h hq hok

end Sys2Proof.Machine
end

section
/-!
PROOFS. The results of the generator's commands (42_generator.md R100 to R103), and what the spec infers from them: the order of
the plain generator's strings (R106), recovery from OVERFLOW (R107) and the decoding of what is emitted (R108).
-/

namespace Sys2Proof.Machine

open Sys2Proof.Safety

/-! ### The operations as updates of the state -/

/-- Selecting the time changes the clock's fields alone. -/
theorem afterTime_eq (sel : BitVec 1) (s : State) :
    afterTime sel s = { s with
      clkIn := if sel = 1 then s.clkIn else s.clkIn.tail
      clkDraws := if sel = 1 then s.clkDraws else s.clkDraws + 1 } := by
  rcases bit_cases sel with rfl | rfl <;> rfl

/-- Writing LAST_RND while RND_VALID = 1 changes LAST_RND alone. -/
theorem writeRnd_of_valid (r : Payload) {s : State} (h : s.rndValid = 1) : writeRnd r s = { s with lastRnd := some r } := by
  rw [writeRnd, ← h]

theorem heldRnd_of_not_valid {s : State} (h : s.rndValid = 0) : heldRnd s = none := by
  simp [heldRnd, h]

/-! ### GEN and GENM while the block is not fatal, row by row (R100, R101, R103) -/

section Alive

variable {sel : BitVec 1} {x : Millis} {s : State} (hs : s.fatal = 0)
include hs

theorem exec_gen_good (hok : (entSample s).ok = 1) :
    exec (.gen sel x) s = .next (emit (selectedTime sel x s) (entSample s).ent (takeEnt (afterTime sel s))) := by
  simp [exec_alive _ s hs, body, generatePlain, hok]

theorem exec_gen_failed (hfail : (entSample s).ok = 0) :
    exec (.gen sel x) s = .next (raiseRngFail (takeEnt (afterTime sel s))) := by
  simp [exec_alive _ s hs, body, generatePlain, hfail]

/-- GENM at a time other than LAST_TS takes the new-millisecond transition. -/
theorem exec_genm_new (ht : selectedTime sel x s ≠ s.lastTs) :
    exec (.genm sel x) s = .next (newMillisecond (selectedTime sel x s) (afterTime sel s)) := by
  rw [exec_alive _ s hs, body, generateMonotonic, afterTime_lastTs, if_pos ht]

/-- GENM at LAST_TS takes the same-millisecond transition. -/
theorem exec_genm_same (ht : selectedTime sel x s = s.lastTs) :
    exec (.genm sel x) s = .next (sameMillisecond (selectedTime sel x s) (afterTime sel s)) := by
  rw [exec_alive _ s hs, body, generateMonotonic, afterTime_lastTs, if_neg (not_not.mpr ht)]

theorem exec_genm_new_good (ht : selectedTime sel x s ≠ s.lastTs) (hok : (entSample s).ok = 1) :
    exec (.genm sel x) s = .next (emit (selectedTime sel x s) (entSample s).ent
      (writeTs (selectedTime sel x s) (writeRnd (entSample s).ent (takeEnt (afterTime sel s))))) := by
  simp [exec_genm_new hs ht, newMillisecond, hok]

theorem exec_genm_new_failed (ht : selectedTime sel x s ≠ s.lastTs) (hfail : (entSample s).ok = 0) :
    exec (.genm sel x) s = .next (raiseRngFail (takeEnt (afterTime sel s))) := by
  simp [exec_genm_new hs ht, newMillisecond, hfail]

theorem exec_genm_unset (ht : selectedTime sel x s = s.lastTs) (hnone : heldRnd s = none) :
    exec (.genm sel x) s = .next (raise .uninit 0 (afterTime sel s)) := by
  simp [exec_genm_same hs ht, sameMillisecond, hnone]

theorem exec_genm_maximum {n : Payload} (ht : selectedTime sel x s = s.lastTs) (hn : heldRnd s = some n)
    (hmax : n.toNat = maxRandomness) : exec (.genm sel x) s = .next (raise .overflow 0 (afterTime sel s)) := by
  simp [exec_genm_same hs ht, sameMillisecond, hn, hmax]

theorem exec_genm_increment {n : Payload} (ht : selectedTime sel x s = s.lastTs) (hn : heldRnd s = some n)
    (hlt : n.toNat < maxRandomness) :
    exec (.genm sel x) s = .next (emit (selectedTime sel x s) (n + 1) (writeRnd (n + 1) (afterTime sel s))) := by
  simp [exec_genm_same hs ht, sameMillisecond, hn, hlt.ne]

end Alive

/-! ### INIT (R102) -/

/-- INIT while the block is not fatal loads the three registers and reports OK. -/
theorem exec_init_alive (its : Millis) (irv : BitVec 1) (irnd : Payload) {s : State} (hs : s.fatal = 0) :
    exec (.init its irv irnd) s =
      .next (respond (blankResponse .ok 0) (withGenerator its (if irv = 1 then some irnd else none) irv s)) := by
  rw [exec_alive _ s hs, body, loadGenerator_eq_withGenerator]

/-! ### OVERFLOW (R101, R107) -/

/-- An error that GENM raises after selecting its time leaves the four registers alone (60_exceptions.md R122). -/
theorem sameRegisters_raise_afterTime (e : Err) (info : BitVec 8) (sel : BitVec 1) (s : State) :
    SameRegisters s (raise e info (afterTime sel s)) where
  lastTs := afterTime_lastTs sel s
  lastRnd := afterTime_lastRnd sel s
  rndValid := afterTime_rndValid sel s
  fatal := afterTime_fatal sel s

/-- GENM reports OVERFLOW only while LAST_RND holds the maximum, and writes no register then. -/
theorem exec_genm_overflow_inv {sel : BitVec 1} {x : Millis} {s t : State} {r : Response}
    (h : exec (.genm sel x) s = .next t) (hr : t.response = some r) (herr : r.err = 0x7) :
    s.fatal = 0 ∧ t = raise .overflow 0 (afterTime sel s) ∧ ∃ n, heldRnd s = some n ∧ n.toNat = maxRandomness := by
  rcases exec_cases _ s t h with ⟨_, rfl⟩ | ⟨hs, rfl⟩
  · cases hr; cases herr
  · rcases generateMonotonic_cases (selectedTime sel x s) (afterTime sel s) with
      ⟨_, _, hbody⟩ | ⟨_, _, hbody⟩ | ⟨_, _, hbody⟩ | ⟨n, _, hn, hmax, hbody⟩ | ⟨n, _, _, _, hbody⟩ <;>
      rw [body, hbody] at hr <;> cases hr
    · cases herr
    · cases herr
    · cases herr
    · exact ⟨hs, hbody, n, (heldRnd_afterTime sel s).symm.trans hn, hmax⟩
    · cases herr

/-! ### The order of strings (R106) -/

theorem codeLess_asymm {a b : Vector Code 26} (hab : CodeLess a b) : ¬ CodeLess b a := by
  rintro ⟨j, hbefore', hj⟩
  obtain ⟨i, hbefore, hi⟩ := hab
  rcases lt_trichotomy i j with hij | rfl | hij
  · exact BitVec.lt_irrefl _ (hbefore' i hij ▸ hi)
  · exact BitVec.lt_asymm hi hj
  · exact BitVec.lt_irrefl _ (hbefore j hij ▸ hj)

/-- A value has one string. -/
theorem chr_eq_of_emitsValue {r1 r2 : Response} {v : Nat} (h1 : EmitsValue r1 v) (h2 : EmitsValue r2 v) :
    r1.chr = r2.chr := by
  ext1 i hi
  have hgrp : r1.grp[i] = r2.grp[i] := BitVec.eq_of_toNat_eq ((h1.grp ⟨i, hi⟩).trans (h2.grp ⟨i, hi⟩).symm)
  exact (h1.chr ⟨i, hi⟩).trans ((congrArg sym hgrp).trans (h2.chr ⟨i, hi⟩).symm)

/-- Strings of emitted values are in the order of the values, and in no other. -/
theorem codeLess_iff_of_emitsValue {r1 r2 : Response} {v1 v2 : Nat} (h1 : EmitsValue r1 v1) (h2 : EmitsValue r2 v2) :
    CodeLess r1.chr r2.chr ↔ v1 < v2 := by
  refine ⟨fun h => ?_, codeLess_of_emitsValue h1 h2⟩
  rcases lt_trichotomy v1 v2 with hlt | rfl | hgt
  · exact hlt
  · rw [chr_eq_of_emitsValue h1 h2] at h
    exact absurd h (codeLess_asymm h)
  · exact absurd h (codeLess_asymm (codeLess_of_emitsValue h2 h1 hgt))

/-- A successful GEN emits its time with the entropy it sampled. -/
theorem emitsValue_of_gen_ok {sel : BitVec 1} {x : Millis} {s t : State} {r : Response}
    (h : exec (.gen sel x) s = .next t) (hr : t.response = some r) (hok : r.err = 0) :
    EmitsValue r ((selectedTime sel x s).toNat * 2 ^ 80 + (entSample s).ent.toNat) := by
  rw [generatePlain_ok (exec_ok h hr hok).2 hok, entSample_afterTime]
  exact emission_append_emits _ _

/-! ### Decoding what is emitted (R108) -/

/-- The characters of an emitted value are accepted in every build, and decode to its two fields. -/
theorem exec_dec_of_emitsValue {r : Response} {v : Nat} (h : EmitsValue r v) {u : State} (hu : u.fatal = 0) :
    ∃ q, exec (.dec 26 r.chr) u = .next { u with response := some q } ∧ DecodesTo q r.ts.toNat r.rnd.toNat := by
  have hpack : (packGroups r.grp).toNat = v := packGroups_of_emitsValue h
  have hv : v < 2 ^ 128 := h.val ▸ r.val.isLt
  obtain ⟨q, hq, hdec⟩ := exec_decg_in_range r.grp u (hpack.symm ▸ hv) hu
  rw [hpack, ← h.ts, ← h.rnd] at hdec
  exact ⟨q, (exec_dec_eq_decg fun i => by rw [h.chr, unsym_sym]).trans hq, hdec⟩

/-! ### The statements -/

/-- Settles O21: the two verdicts of the entropy sample, each with its state written out field by field. -/
theorem genResult : Obligations.GenResult := by
  rintro sel seed s _ hs rfl
  refine ⟨by rcases bit_cases sel with rfl | rfl <;> rfl, fun hok => ?_, fun hfail => ?_⟩
  · refine ⟨_, (exec_gen_good hs hok).trans ?_, emission_append_emits _ _⟩
    rw [afterTime_eq]; rfl
  · refine ⟨_, (exec_gen_failed hs hfail).trans ?_, blankResponse_reports .rngFail 0⟩
    rw [afterTime_eq]; rfl

/-- Settles O22: the rows of R103, each with its state written out field by field. -/
theorem genmResult : Obligations.GenmResult := by
  rintro sel seed _ s _ hs rfl rfl
  refine ⟨by rcases bit_cases sel with rfl | rfl <;> rfl, fun ht hok => ?_, fun ht hfail => ?_, fun ht hunset => ?_,
    fun n ht hvalid hn hmax => ?_, fun n ht hvalid hn hlt => ?_⟩
  · refine ⟨_, (exec_genm_new_good hs ht hok).trans ?_, emission_append_emits _ _⟩
    rw [afterTime_eq]; rfl
  · refine ⟨_, (exec_genm_new_failed hs ht hfail).trans ?_, blankResponse_reports .rngFail 0⟩
    rw [afterTime_eq]; rfl
  · refine ⟨_, (exec_genm_unset hs ht (heldRnd_of_not_valid hunset)).trans ?_, blankResponse_reports .uninit 0⟩
    rw [afterTime_eq]; rfl
  · have hheld : heldRnd s = some n := (heldRnd_eq_some s n).mpr ⟨hvalid, hn⟩
    refine ⟨_, (exec_genm_maximum hs ht hheld hmax).trans ?_, blankResponse_reports .overflow 0⟩
    rw [afterTime_eq]; rfl
  · have hheld : heldRnd s = some n := (heldRnd_eq_some s n).mpr ⟨hvalid, hn⟩
    refine ⟨_, n + 1, toNat_increment n hlt, (exec_genm_increment hs ht hheld hlt).trans ?_, emission_append_emits _ _⟩
    rw [writeRnd_of_valid _ ((afterTime_rndValid sel s).trans hvalid), afterTime_eq]; rfl

/-- Settles O23: the loaded registers for each IRV, the prelude's refusal, and GENM's OVERFLOW row on the loaded maximum. -/
theorem initResult : Obligations.InitResult := by
  intro its irv irnd s
  refine ⟨rfl, ?_, ?_, fun hs => ?_, ?_⟩
  · rintro hs rfl
    exact ⟨_, blankResponse_reports .ok 0, exec_init_alive its 1 irnd hs⟩
  · rintro hs rfl
    exact ⟨_, blankResponse_reports .ok 0, exec_init_alive its 0 irnd hs⟩
  · exact ⟨_, blankResponse_reports .fatal 0, exec_fatal _ s hs⟩
  · rintro hs rfl hmax
    exact ⟨_, _, _, exec_init_alive its 1 irnd hs, exec_genm_maximum (n := irnd) hs rfl rfl hmax, rfl,
      blankResponse_reports .overflow 0⟩

/-- Settles O26: the strings are in the order of the values, in which the time stands above the payload's 80 bits. -/
theorem plainGeneratorOrder : Obligations.PlainGeneratorOrder := by
  intro a b x y s1 t1 s2 t2 r1 r2 h1 hr1 hok1 h2 hr2 hok2
  rw [codeLess_iff_of_emitsValue (emitsValue_of_gen_ok h1 hr1 hok1) (emitsValue_of_gen_ok h2 hr2 hok2)]
  have hent := (entSample s1).ent.isLt
  exact ⟨fun hlt => by omega, fun heq => by rw [heq]; omega⟩

/-- Settles O27: OVERFLOW leaves LAST_RND at the maximum, so the next GENM is in the OVERFLOW row again, or on a new
millisecond. -/
theorem overflowRecovery : Obligations.OverflowRecovery := by
  intro sel seed s t r h hr herr
  obtain ⟨hs, rfl, n, hn, hmax⟩ := exec_genm_overflow_inv h hr herr
  have hsame : SameRegisters s (raise .overflow 0 (afterTime sel s)) := sameRegisters_raise_afterTime _ _ sel s
  have ht : (raise .overflow 0 (afterTime sel s)).fatal = 0 := hsame.fatal.trans hs
  have hheld : heldRnd (raise .overflow 0 (afterTime sel s)) = some n := (heldRnd_afterTime sel s).trans hn
  refine ⟨hsame, fun sel' seed' => ⟨fun htime => ?_, fun htime hok => ?_⟩⟩
  · exact ⟨_, _, exec_genm_maximum ht htime hheld hmax, rfl, blankResponse_reports .overflow 0,
      sameRegisters_raise_afterTime _ _ sel' _⟩
  · exact ⟨_, _, exec_genm_new_good ht htime hok, rfl, emission_append_emits _ _⟩

/-- Settles O28: a success of GEN or GENM is an emitted value, whose timestamp has 48 bits and whose string decodes. -/
theorem emittedStringsDecode : Obligations.EmittedStringsDecode := by
  intro i s t u r hi h hr hok hu
  obtain ⟨v, hv⟩ := emitsValue_of_ok (.inr hi) h hr hok
  exact ⟨by have := r.ts.isLt; omega, exec_dec_of_emitsValue hv hu⟩

end Sys2Proof.Machine
end

section
/-!
PROOFS. Errors and the fatal state (60_exceptions.md R120 to R124, R133), and the way out of it by reset
(70_reset_and_hazards.md R140, R155).
-/

namespace Sys2Proof.Machine

open Sys2Proof.Safety

/-! ### The errors of each command (R120) -/

/-- The errors whose row of R120's table names the command as what raises them, FATAL last (R124). -/
def errorsOf : Mnemonic → List Err
  | .ENC => [.rangeValue, .fatal]
  | .ENCTS => [.rangeTs, .fatal]
  | .DECG => [.valueTs, .fatal]
  | .DEC => [.valueLen, .valueChar, .valueTs, .fatal]
  | .GEN => [.rngFail, .fatal]
  | .GENM => [.overflow, .rngFail, .uninit, .fatal]
  | .INIT => [.fatal]

/-- The errors of R120's table that the block raises: all but TYPE (R121). -/
def blockErrors : List Err :=
  [.rangeValue, .rangeTs, .valueLen, .valueChar, .valueTs, .overflow, .rngFail, .uninit, .illegal, .fatal]

theorem errorsOf_subset_blockErrors (m : Mnemonic) : errorsOf m ⊆ blockErrors := by
  cases m <;> decide

theorem fatal_mem_errorsOf (m : Mnemonic) : Err.fatal ∈ errorsOf m := by
  cases m <;> decide

theorem errCode_eq_rngFail_iff (e : Err) : errCode e = 0x8 ↔ e = .rngFail := by
  cases e <;> decide

/-! ### How a command ends (R122) -/

theorem sameRegisters_trans {s u t : State} (h1 : SameRegisters s u) (h2 : SameRegisters u t) : SameRegisters s t :=
  ⟨h2.lastTs.trans h1.lastTs, h2.lastRnd.trans h1.lastRnd, h2.rndValid.trans h1.rndValid, h2.fatal.trans h1.fatal⟩

theorem sameRegisters_afterTime (sel : BitVec 1) (s : State) : SameRegisters s (afterTime sel s) :=
  ⟨afterTime_lastTs sel s, afterTime_lastRnd sel s, afterTime_rndValid sel s, afterTime_fatal sel s⟩

/-- The ends of a command that began in `s` and may raise the errors of `errs`: OK; an error, raised with the registers as they
were in `s`; or RNG_FAIL, which sets FATAL besides. -/
inductive Ends (errs : List Err) (s : State) : State → Prop where
  | ok {t : State} {r : Response} (hr : t.response = some r) (hok : r.err = 0) : Ends errs s t
  | raised {e : Err} {info : BitVec 8} {u : State} (he : e ∈ errs) (hne : e ≠ .rngFail) (hu : SameRegisters s u) :
      Ends errs s (raise e info u)
  | rngFail {u : State} (he : .rngFail ∈ errs) (hu : SameRegisters s u) : Ends errs s (raiseRngFail u)

/-- An operation may come first that writes no register: a clock sample, or the acceptance of the command. -/
theorem Ends.of_sameRegisters {errs : List Err} {s u t : State} (h : Ends errs u t) (hu : SameRegisters s u) :
    Ends errs s t := by
  cases h with
  | ok hr hok => exact .ok hr hok
  | raised he hne hv => exact .raised he hne (sameRegisters_trans hu hv)
  | rngFail he hv => exact .rngFail he (sameRegisters_trans hu hv)

theorem Ends.mono {errs errs' : List Err} {s t : State} (h : Ends errs s t) (hsub : errs ⊆ errs') : Ends errs' s t := by
  cases h with
  | ok hr hok => exact .ok hr hok
  | raised he hne hu => exact .raised (hsub he) hne hu
  | rngFail he hu => exact .rngFail (hsub he) hu

/-- An error raised in the state itself. -/
theorem Ends.raised_here {errs : List Err} {e : Err} {info : BitVec 8} {s : State} (he : e ∈ errs) (hne : e ≠ .rngFail) :
    Ends errs s (raise e info s) :=
  .raised he hne ⟨rfl, rfl, rfl, rfl⟩

/-- The code reported is OK or that of one of the errors. -/
theorem Ends.err_mem {errs : List Err} {s t : State} {r : Response} (h : Ends errs s t) (hr : t.response = some r) :
    r.err ∈ 0 :: errs.map errCode := by
  cases h with
  | ok hr' hok =>
    cases hr'.symm.trans hr
    exact hok ▸ List.mem_cons_self
  | raised he _ _ =>
    cases hr
    exact List.mem_cons_of_mem _ (List.mem_map_of_mem he)
  | rngFail he _ =>
    cases hr
    exact List.mem_cons_of_mem _ (List.mem_map_of_mem he)

/-- A command that reports an error kept the registers, or reported RNG_FAIL and wrote FATAL alone. -/
theorem Ends.of_error {errs : List Err} {s t : State} {r : Response} (h : Ends errs s t) (hr : t.response = some r)
    (herr : r.err ≠ 0) : SameGenerator s t ∧ (r.err ≠ 0x8 ∧ t.fatal = s.fatal ∨ r.err = 0x8 ∧ t.fatal = 1) := by
  cases h with
  | ok hr' hok =>
    cases hr'.symm.trans hr
    exact absurd hok herr
  | @raised e _ _ _ hne hu =>
    cases hr
    exact ⟨⟨hu.lastTs, hu.lastRnd, hu.rndValid⟩, .inl ⟨mt (errCode_eq_rngFail_iff e).mp hne, hu.fatal⟩⟩
  | rngFail _ hu =>
    cases hr
    exact ⟨⟨hu.lastTs, hu.lastRnd, hu.rndValid⟩, .inr ⟨rfl, rfl⟩⟩

/-! ### Every command and every step ends so -/

/-- The checks of R80, of a command that may raise VALUE_TS: DECG, and DEC at its end. -/
theorem decodeGroups_ends {errs : List Err} (he : .valueTs ∈ errs) (g : Vector Group 26) (s : State) :
    Ends errs s (decodeGroups g s) := by
  rcases decodeGroups_cases g s with ⟨_, h⟩ | ⟨_, h⟩ <;> rw [h]
  · exact .raised_here he nofun
  · exact .ok rfl rfl

theorem decodeString_ends (len : Nat) (chars : Vector Code 26) (s : State) :
    Ends (errorsOf .DEC) s (decodeString len chars s) := by
  rcases decodeString_cases len chars s with ⟨_, h⟩ | ⟨_, i, _, h⟩ | ⟨_, _, h⟩ <;> rw [h]
  · exact .raised_here (by decide) nofun
  · exact .raised_here (by decide) nofun
  · exact decodeGroups_ends (by decide) _ s

theorem generatePlain_ends (t : Millis) (s : State) : Ends (errorsOf .GEN) s (generatePlain t s) := by
  rcases generatePlain_cases t s with ⟨_, h⟩ | ⟨_, h⟩ <;> rw [h]
  · exact .rngFail (by decide) ⟨rfl, rfl, rfl, rfl⟩
  · exact .ok rfl rfl

theorem generateMonotonic_ends (t : Millis) (s : State) : Ends (errorsOf .GENM) s (generateMonotonic t s) := by
  rcases generateMonotonic_cases t s with ⟨_, _, h⟩ | ⟨_, _, h⟩ | ⟨_, _, h⟩ | ⟨_, _, _, _, h⟩ | ⟨_, _, _, _, h⟩ <;> rw [h]
  · exact .rngFail (by decide) ⟨rfl, rfl, rfl, rfl⟩
  · exact .ok rfl rfl
  · exact .raised_here (by decide) nofun
  · exact .raised_here (by decide) nofun
  · exact .ok rfl rfl

theorem body_ends (i : Instr) (s : State) : Ends (errorsOf (mnemonicOf i)) s (body i s) := by
  cases i with
  | enc v =>
    simp only [body]
    split
    · exact .raised_here List.mem_cons_self nofun
    · exact .ok rfl rfl
  | encts t =>
    simp only [body]
    split
    · exact .raised_here List.mem_cons_self nofun
    · exact .ok rfl rfl
  | decg groups => exact decodeGroups_ends List.mem_cons_self groups s
  | dec len chars => exact decodeString_ends len chars s
  | gen sel x => exact (generatePlain_ends _ _).of_sameRegisters (sameRegisters_afterTime sel s)
  | genm sel x => exact (generateMonotonic_ends _ _).of_sameRegisters (sameRegisters_afterTime sel s)
  | init its irv irnd => exact .ok rfl rfl

theorem exec_ends {i : Instr} {s t : State} (h : exec i s = .next t) : Ends (errorsOf (mnemonicOf i)) s t := by
  rcases exec_cases i s t h with ⟨_, rfl⟩ | ⟨_, rfl⟩
  · exact .raised_here (fatal_mem_errorsOf _) nofun
  · exact body_ends i s

theorem refuseIllegal_ends (cmd : BitVec 8) (s : State) : Ends blockErrors s (refuseIllegal cmd s) := by
  rcases withPrelude_cases (raise .illegal cmd) s with ⟨_, h⟩ | ⟨_, h⟩ <;> rw [refuseIllegal, h]
  · exact .raised_here (by decide) nofun
  · exact .raised_here (by decide) nofun

/-- A step that responds has performed a command, legal or not. -/
theorem step_ends {s t : State} {r : Response} (h : step s = .next t) (hr : t.response = some r) : Ends blockErrors s t := by
  have accept (rest : List PortEvent) : SameRegisters s (acceptEvent rest s) := ⟨rfl, rfl, rfl, rfl⟩
  rcases step_cases s t h with ⟨_, rfl⟩ | ⟨rest, _, rfl⟩ | ⟨c, rest, i, _, _, _, he⟩ | ⟨c, rest, _, _, _, rfl⟩
  · cases hr
  · cases hr
  · exact ((exec_ends he).mono (errorsOf_subset_blockErrors _)).of_sameRegisters (accept rest)
  · exact (refuseIllegal_ends c.cmd _).of_sameRegisters (accept rest)

/-! ### The fatal state (R124) -/

/-- While FATAL = 1 a command, legal or not, is refused. -/
theorem step_of_fatal {s : State} {c : Command} {rest : List PortEvent} (hw : s.wasReset = true) (hs : s.fatal = 1)
    (hp : s.pending = .command c :: rest) : step s = .next (raise .fatal 0 (acceptEvent rest s)) := by
  rcases decode_cases c with ⟨m, _, hd⟩ | ⟨_, hd⟩
  · rw [step_of_decode_ok hw hp hd, exec_fatal _ (acceptEvent rest s) hs]
  · rw [step_of_decode_error hw hp hd, refuseIllegal, withPrelude_fatal _ (acceptEvent rest s) hs]

/-- FATAL stays 1 in every step but an assertion of the reset input. -/
theorem step_reset_or_keeps_fatal {s t : State} (h : step s = .next t) (hs : s.fatal = 1) :
    (∃ rest, s.pending = .reset :: rest) ∨ t.fatal = 1 := by
  rcases step_cases s t h with ⟨_, rfl⟩ | ⟨rest, hp, _⟩ | ⟨c, rest, i, hp, hw, _, _⟩ | ⟨c, rest, hp, hw, _, _⟩
  · exact .inr hs
  · exact .inl ⟨rest, hp⟩
  · cases h.symm.trans (step_of_fatal hw hs hp)
    exact .inr hs
  · cases h.symm.trans (step_of_fatal hw hs hp)
    exact .inr hs

/-! ### GENM after a reset (70_reset_and_hazards.md R155) -/

/-- At a time other than 0, the reset value of LAST_TS, it starts a new millisecond. -/
theorem exec_genm_resetInput_new {sel : BitVec 1} {x : Millis} {s : State} (ht : selectedTime sel x (resetInput s) ≠ 0)
    (hok : (entSample (resetInput s)).ok = 1) :
    ∃ v q, exec (.genm sel x) (resetInput s) = .next v ∧ v.response = some q ∧
      EmitsValue q ((selectedTime sel x (resetInput s)).toNat * 2 ^ 80 + (entSample (resetInput s)).ent.toNat) :=
  ⟨_, _, exec_genm_new_good rfl ht hok, rfl, emission_append_emits _ _⟩

/-- At time 0 it is in the millisecond of LAST_TS, where LAST_RND holds no value. -/
theorem exec_genm_resetInput_zero {sel : BitVec 1} {x : Millis} {s : State} (ht : selectedTime sel x (resetInput s) = 0) :
    ∃ v q, exec (.genm sel x) (resetInput s) = .next v ∧ v.response = some q ∧ Reports q 0x9 0x00 :=
  ⟨_, _, exec_genm_unset rfl ht (heldRnd_of_not_valid rfl), rfl, blankResponse_reports .uninit 0⟩

/-! ### The statements -/

/-- Settles O32: a command ends in OK or an error of its rows, and a step in OK or an error of the block, none of which is TYPE
or has a reserved code. -/
theorem errorsOfEachCommand : Obligations.ErrorsOfEachCommand := by
  refine ⟨fun i s t r h hr => ?_, fun s t r h hr => ?_⟩
  · have hmem := (exec_ends h).err_mem hr
    cases hm : mnemonicOf i <;> rw [hm] at hmem <;> exact hmem
  · have hcodes : ∀ code ∈ 0 :: blockErrors.map errCode, code ≠ 0x1 ∧ code.toNat ≤ 0xB := by decide
    exact hcodes _ ((step_ends h hr).err_mem hr)

/-- Settles O33: an error is raised with the registers as they were, or is RNG_FAIL with FATAL set; its response is blank. -/
theorem errorsChangeNoState : Obligations.ErrorsChangeNoState := by
  intro s t r h hr herr
  have hdata : NoData r := (step_wellFormed h hr).error herr
  obtain ⟨⟨hts, hrnd, hvalid⟩, ⟨hcode, hfatal⟩ | ⟨hcode, hfatal⟩⟩ := (step_ends h hr).of_error hr herr
  · exact ⟨hts, hrnd, hvalid, fun _ => hfatal, (absurd · hcode), hdata⟩
  · exact ⟨hts, hrnd, hvalid, absurd hcode, fun _ => hfatal, hdata⟩

/-- Settles O34: the prelude's first check refuses every command, and only the reset input writes FATAL back to 0. -/
theorem fatalRefusesEveryCommand : Obligations.FatalRefusesEveryCommand := by
  refine ⟨fun i s hs => ?_, fun s c rest hw hs hp => ?_, fun s t h hs ht => ?_, fun s rest hp => ?_⟩
  · exact ⟨_, exec_fatal i s hs, blankResponse_reports .fatal 0⟩
  · exact ⟨_, step_of_fatal hw hs hp, blankResponse_reports .fatal 0⟩
  · exact (step_reset_or_keeps_fatal h hs).resolve_right (by simp [ht])
  · exact ⟨_, step_of_reset hp, rfl⟩

/-- Settles O36: RNG_FAIL leaves FATAL = 1, under which every command is refused; the reset gives LAST_TS = 0 and an unset
LAST_RND, so GENM starts a new millisecond, or finds no value at time 0. -/
theorem rngFailNeedsReset : Obligations.RngFailNeedsReset := by
  intro s t r h hr herr
  have hfatal : t.fatal = 1 :=
    (((step_ends h hr).of_error hr (by rw [herr]; decide)).2.resolve_left fun hother => hother.1 herr).2
  refine ⟨fun i => ⟨_, exec_fatal i t hfatal, blankResponse_reports .fatal 0⟩, _, step_of_reset rfl, fun sel seed => ?_⟩
  exact ⟨exec_genm_resetInput_new, exec_genm_resetInput_zero⟩

/-- Settles O53: nothing presented is the first case of a step, which empties the response port. -/
theorem idleHoldsState : Obligations.IdleHoldsState :=
  fun _ hp => step_of_idle hp

end Sys2Proof.Machine
end

section
/-!
PROOFS. The order of the monotonic generator's strings over a run (42_generator.md R104), and the reset input
(70_reset_and_hazards.md R140).
-/

namespace Sys2Proof.Machine

open Sys2Proof.Safety

/-! ### Strings in order (40_encode.md R63) -/

theorem codeLess_trans {a b c : Vector Code 26} (hab : CodeLess a b) (hbc : CodeLess b c) : CodeLess a c := by
  obtain ⟨i, hbefore, hi⟩ := hab
  obtain ⟨j, hbefore', hj⟩ := hbc
  rcases lt_trichotomy i j with hij | rfl | hij
  · exact ⟨i, fun k hk => (hbefore k hk).trans (hbefore' k (hk.trans hij)), hbefore' i hij ▸ hi⟩
  · exact ⟨i, fun k hk => (hbefore k hk).trans (hbefore' k hk), BitVec.lt_trans hi hj⟩
  · exact ⟨j, fun k hk => (hbefore k (hk.trans hij)).trans (hbefore' k hk), (hbefore j hij).symm ▸ hj⟩

/-- The string of `a` is less than that of `b`. -/
def StringLess (a b : Response) : Prop := CodeLess a.chr b.chr

/-! ### One GENM after another -/

/-- `r` carries the value of its own VAL field. -/
def EmitsOwnValue (r : Response) : Prop := EmitsValue r r.val.toNat

theorem emitsOwnValue_emission (x : Ulid) : EmitsOwnValue (emission x) :=
  emission_emits x

/-- `b` is emitted while the generator registers hold the pair that `a` emitted: both carry their values, and in the same
millisecond `b` has the incremented payload (R101). -/
structure Follows (a b : Response) : Prop where
  first : EmitsOwnValue a
  second : EmitsOwnValue b
  increment : a.ts = b.ts → b.rnd.toNat = a.rnd.toNat + 1

/-- In a later millisecond the timestamp decides the order of the values, in the same one the payload does. -/
theorem Follows.stringLess {a b : Response} (h : Follows a b) (hts : a.ts.toNat ≤ b.ts.toNat) : StringLess a b := by
  have ha := h.first.ts
  have ha' := h.first.rnd
  have hb := h.second.ts
  have hb' := h.second.rnd
  refine codeLess_of_emitsValue h.first h.second ?_
  rcases hts.lt_or_eq with hlt | heq
  · omega
  · have hinc := h.increment (BitVec.eq_of_toNat_eq heq)
    omega

/-- A GENM body that succeeds in the millisecond of the pair held increments its payload. -/
theorem generateMonotonic_increment {last r : Response} {t : Millis} {s : State} (hlast : HoldsEmitted last s)
    (hr : (generateMonotonic t s).response = some r) (hok : r.err = 0) (hts : last.ts = r.ts) :
    r.rnd.toNat = last.rnd.toNat + 1 := by
  rcases generateMonotonic_cases t s with ⟨_, _, h⟩ | ⟨ht, _, h⟩ | ⟨_, _, h⟩ | ⟨_, _, _, _, h⟩ | ⟨n, _, hn, hlt, h⟩ <;>
    rw [h] at hr <;> cases hr
  · cases hok
  · rw [emission_append_ts] at hts
    exact absurd (hlast.lastTs.trans hts).symm ht
  · cases hok
  · cases hok
  · have hheld : last.rnd = n := Option.some.inj (hlast.lastRnd.symm.trans ((heldRnd_eq_some s n).mp hn).2)
    rw [emission_append_rnd, hheld, toNat_increment n hlt]

/-- What a step has as GENM output is the good response of a GENM body, run with the generator registers as they were. -/
theorem generateMonotonic_of_genmOutput {s t : State} {r : Response} (h : step s = .next t) (hmem : r ∈ genmOutput s t) :
    ∃ x u, SameGenerator s u ∧ (generateMonotonic x u).response = some r ∧ r.err = 0 := by
  rcases genmOutput_cases s t with hnone | ⟨c, rest, q, hp, hc, hr, hok, hout⟩
  · rw [hnone] at hmem
    cases hmem
  · rw [hout, List.mem_singleton] at hmem
    subst hmem
    have hd : decode c = .ok (operandsOf .GENM c) := decode_of_opcodeOf hc
    rcases step_cases s t h with ⟨hp', _⟩ | ⟨_, hp', _⟩ | ⟨_, _, _, hp', _, hd', he⟩ | ⟨_, _, hp', _, hd', _⟩ <;>
      cases hp.symm.trans hp'
    · cases hd.symm.trans hd'
      refine ⟨_, _, ?_, (exec_ok he hr hok).2, hok⟩
      exact ⟨afterTime_lastTs _ _, afterTime_lastRnd _ _, afterTime_rndValid _ _⟩
    · cases hd.symm.trans hd'

theorem emitsOwnValue_of_genmOutput {s t : State} {r : Response} (h : step s = .next t) (hmem : r ∈ genmOutput s t) :
    EmitsOwnValue r := by
  obtain ⟨x, u, _, hr, hok⟩ := generateMonotonic_of_genmOutput h hmem
  obtain ⟨p, rfl⟩ := generateMonotonic_ok hr hok
  exact emitsOwnValue_emission _

/-- The output of a step follows the response whose pair the registers hold. -/
theorem follows_of_genmOutput {last r : Response} {s t : State} (hlast : HoldsEmitted last s) (hown : EmitsOwnValue last)
    (h : step s = .next t) (hmem : r ∈ genmOutput s t) : Follows last r := by
  obtain ⟨x, u, hsame, hr, hok⟩ := generateMonotonic_of_genmOutput h hmem
  exact ⟨hown, emitsOwnValue_of_genmOutput h hmem, generateMonotonic_increment (holdsEmitted_of_same hlast hsame) hr hok⟩

/-! ### Runs -/

/-- The first step of a run stops it, or has no GENM output, or has one response before those of the other steps. -/
theorem genmOutputs_succ_cases (n : Nat) (s : State) :
    genmOutputs (n + 1) s = [] ∨
    (∃ t, step s = .next t ∧ genmOutput s t = [] ∧ genmOutputs (n + 1) s = genmOutputs n t) ∨
    (∃ t r, step s = .next t ∧ r ∈ genmOutput s t ∧ genmOutputs (n + 1) s = r :: genmOutputs n t) := by
  cases h : step s with
  | fault _ => exact .inl (by simp only [genmOutputs, h])
  | refused _ => exact .inl (by simp only [genmOutputs, h])
  | next t =>
    have hrun : genmOutputs (n + 1) s = genmOutput s t ++ genmOutputs n t := by simp only [genmOutputs, h]
    rcases genmOutput_cases s t with hnone | ⟨_, _, r, _, _, _, _, hout⟩
    · exact .inr (.inl ⟨t, rfl, hnone, by rw [hrun, hnone, List.nil_append]⟩)
    · exact .inr (.inr ⟨t, r, rfl, by rw [hout]; exact List.mem_singleton_self r, by rw [hrun, hout, List.singleton_append]⟩)

/-- The events left at the port after a step were there before it. -/
theorem keepsGenerator_of_step {s t : State} (hkeep : ∀ e ∈ s.pending, KeepsGenerator e) (h : step s = .next t) :
    ∀ e ∈ t.pending, KeepsGenerator e :=
  fun e he => hkeep e (List.mem_of_mem_tail (step_pending h ▸ he))

/-- The first output of a run follows the response whose pair the registers hold at its start. -/
theorem follows_head_genmOutputs (n : Nat) {s : State} {last : Response} (hlast : HoldsEmitted last s)
    (hown : EmitsOwnValue last) (hkeep : ∀ e ∈ s.pending, KeepsGenerator e) :
    ∀ r ∈ (genmOutputs n s).head?, Follows last r := by
  induction n generalizing s with
  | zero => nofun
  | succ n ih =>
    rcases genmOutputs_succ_cases n s with hrun | ⟨t, h, hnone, hrun⟩ | ⟨t, q, h, hq, hrun⟩ <;> rw [hrun]
    · nofun
    · have hsame : SameGenerator s t := step_sameGenerator (fun e he => hkeep e (List.mem_of_head? he)) h hnone
      exact ih (holdsEmitted_of_same hlast hsame) (keepsGenerator_of_step hkeep h)
    · rintro r ⟨⟩
      exact follows_of_genmOutput hlast hown h hq

/-- Each output of a run follows the one before it: the registers hold that one's pair until the next success. -/
theorem isChain_follows_genmOutputs (n : Nat) {s : State} (hkeep : ∀ e ∈ s.pending, KeepsGenerator e) :
    (genmOutputs n s).IsChain Follows := by
  induction n generalizing s with
  | zero => exact .nil
  | succ n ih =>
    rcases genmOutputs_succ_cases n s with hrun | ⟨t, h, _, hrun⟩ | ⟨t, r, h, hr, hrun⟩ <;> rw [hrun]
    · exact .nil
    · exact ih (keepsGenerator_of_step hkeep h)
    · have hkeep' := keepsGenerator_of_step hkeep h
      have hheld : HoldsEmitted r t := lastEmittedPairKept.2 s t r h hr
      exact (ih hkeep').cons (follows_head_genmOutputs n hheld (emitsOwnValue_of_genmOutput h hr) hkeep')

/-! ### The statements -/

/-- Settles O24: each output follows the one before it and so has the greater string when the time does not decrease; the order
of strings is transitive. -/
theorem monotonicRunIncreases : Obligations.MonotonicRunIncreases := by
  intro n s hkeep hts
  have hfollows : (genmOutputs n s).IsChain Follows := isChain_follows_genmOutputs n hkeep
  have hchain : (genmOutputs n s).IsChain StringLess :=
    List.isChain_iff_getElem.mpr fun i hi => (hfollows.getElem i hi).stringLess (hts.isChain.getElem i hi)
  have : Trans StringLess StringLess StringLess := ⟨codeLess_trans⟩
  exact hchain.pairwise

/-- Settles O47: the step is the reset input on the state with the assertion taken. -/
theorem resetInputResets : Obligations.ResetInputResets :=
  fun _ _ hp => ⟨_, step_of_reset hp, rfl, rfl, rfl, rfl, ⟨rfl, rfl, rfl, rfl⟩, rfl, rfl⟩

end Sys2Proof.Machine
end

section
/-!
PROOFS. The constants (00_scope.md R6), the error codes (60_exceptions.md R120) and the reset state (70_reset_and_hazards.md R140,
R141); the step of a presented opcode-table word (log entry 8); and a GENM whose time has gone back (95_test_vectors.md table 2.6).
-/

namespace Sys2Proof.Machine

open Sys2Proof.Safety

/-! ### The word of the opcode table -/

theorem decodeTableWord_eq_some {nbits w : Nat} {i : Instr} :
    decodeTableWord nbits w = some i ↔ decode (tableCommand nbits w) = .ok i := by
  unfold decodeTableWord
  cases decode (tableCommand nbits w) with
  | ok j => simp only [Option.some_inj, Except.ok.injEq]
  | error e => exact ⟨nofun, nofun⟩

/-- Accepting the command presented first leaves the port as it was, of a block that has been reset. -/
theorem acceptEvent_presentFirst (c : Command) (s : State) :
    acceptEvent s.pending (presentFirst c s) = { s with wasReset := true } := rfl

/-! ### A time that goes back (42_generator.md R104) -/

/-- Of two emitted values the one with the lower timestamp has the lesser string, whatever the payloads are: the timestamp stands
above the payload's 80 bits. -/
theorem codeLess_of_ts_lt {r1 r2 : Response} {v1 v2 : Nat} (h1 : EmitsValue r1 v1) (h2 : EmitsValue r2 v2)
    (hlt : r1.ts < r2.ts) : CodeLess r1.chr r2.chr := by
  have hdiv : v1 / 2 ^ 80 < v2 / 2 ^ 80 := by rwa [← h1.ts, ← h2.ts]
  exact codeLess_of_emitsValue h1 h2 (Nat.lt_of_div_lt_div hdiv)

/-- The start of table 2.6's second row, with the samples of that row and of the one whose time goes back. -/
def beforeBackwardTime : State := { State.reset with entIn := [⟨1, 0xFF⟩, ⟨1, 0x10⟩] }

/-! ### The statements -/

/-- Settles O25: GENM at time 1 and then at time 0, each on a new millisecond with a good sample. -/
theorem backwardTimeCanDecrease : Obligations.BackwardTimeCanDecrease := by
  have hfirst := exec_genm_new_good (s := beforeBackwardTime) (sel := 1) (x := 1) rfl (by decide) rfl
  refine ⟨beforeBackwardTime, _, _, _, _, ⟨rfl, rfl⟩, hfirst, exec_genm_new_good rfl (by decide) rfl, rfl, rfl, rfl, rfl, ?_⟩
  exact codeLess_of_ts_lt (emission_emits _) (emission_emits _) (by decide)

/-- Settles O31: the codes of `errCode`, read off in the order of R120. -/
theorem errorCodeNumbers : Obligations.ErrorCodeNumbers := rfl

/-- Settles O44: the reset state's LAST_RND is unset and its tag is 0. -/
theorem tagAgreesAtReset : Obligations.TagAgreesAtReset :=
  tagAgrees_of_unset rfl rfl

/-- Settles O45: each constant is the value of its power. -/
theorem constantsOfTheBlock : Obligations.ConstantsOfTheBlock :=
  ⟨rfl, rfl, rfl⟩

/-- Settles O46: the fields of the reset state. -/
theorem resetStateValues : Obligations.ResetStateValues :=
  ⟨rfl, rfl, rfl, rfl, rfl⟩

/-- Settles O48: a block never reset takes no command, and the reset input sets the mark. -/
theorem stuckBeforeReset : Obligations.StuckBeforeReset :=
  ⟨fun _ _ _ => step_of_never_reset, fun _ _ hp => ⟨_, step_of_reset hp, resetInput_wasReset _⟩, rfl⟩

/-- Settles O50: the table's command stands in front of a block marked as reset, so the step executes what it decodes to. -/
theorem presentedWordRuns : Obligations.PresentedWordRuns := by
  intro s w i hw
  have hd : decode (tableCommand 8 w) = .ok i := decodeTableWord_eq_some.mp hw
  rw [State.withFetchWord, step_of_decode_ok (presentFirst_wasReset _ s) rfl hd, acceptEvent_presentFirst]

end Sys2Proof.Machine
end
